-- ==== Sys2Proof/Word.lean ====
section
/-! DEFINITION. The words of ALU8: a byte, the four flags, and the pair of a result and its flags.
Bit 0 of a byte is its least significant bit, bit 7 its sign bit (00_scope.md R7). -/

namespace Sys2Proof

/-- Every datum of ALU8 is one byte (00_scope.md R4, 20_memory.md R29). `v.toNat` is the spec's `u(v)`,
`v.toInt` its `s(v)` (00_scope.md R7). -/
abbrev Byte := BitVec 8

/-- The flag set: four independent booleans, listed in the source's order Z, N, C, V (10_state.md R16, R27). -/
structure Flags where
  z : Bool
  n : Bool
  c : Bool
  v : Bool
deriving DecidableEq, Repr, Inhabited

/-- A result and its four flags, `(y, (z, n, c, v))`: what a completed step returns (40_execute.md R59) and, with
`y` read as `LR` and `flags` as `LF`, the content of the snapshot (10_state.md R22). -/
structure Response where
  y : Byte
  flags : Flags
deriving DecidableEq, Repr, Inhabited

end Sys2Proof
end

