-- ==== Sys2Proof/Machine/Flags.lean ====
section
/-! DEFINITION. The flag-derivation pipeline, each flag by its own rule (43_flags.md R75 to R84). -/

namespace Sys2Proof.Machine

/-- `sign(x)`: bit 7 as a boolean (43_flags.md R75, 90_conflicts.md C1). -/
def sign (x : Byte) : Bool := x.getLsbD 7

/-- Stage 2: all four working flags false (40_execute.md R56). -/
def clearedFlags : Flags := { z := false, n := false, c := false, v := false }

/-- Z of a result (43_flags.md R77). -/
def zeroFlag (y : Byte) : Bool := decide (y = 0x00#8)

/-- N of a result (43_flags.md R78). -/
def negativeFlag (y : Byte) : Bool := y.getLsbD 7

/-- C of ADD from the exact sum (43_flags.md R79). -/
def carryOfSum (raw : Int) : Bool := decide (raw > 255)

/-- C of SUB from the exact difference: a borrow flag (43_flags.md R80, 90_conflicts.md C4). -/
def borrowOfDifference (raw : Int) : Bool := decide (raw < 0)

/-- V of ADD, the same-sign rule (43_flags.md R82). -/
def overflowOfAdd (a8 b8 y : Byte) : Bool := (sign a8 == sign b8) && (sign y != sign a8)

/-- V of SUB, the different-sign rule (43_flags.md R83). -/
def overflowOfSub (a8 b8 y : Byte) : Bool := (sign a8 != sign b8) && (sign y != sign a8)

/-- The packed view `{Z, N, C, V}`, Z in bit 3, for tables and comparison only (10_state.md R27). -/
def packFlags (f : Flags) : BitVec 4 :=
  BitVec.ofBool f.z ++ BitVec.ofBool f.n ++ BitVec.ofBool f.c ++ BitVec.ofBool f.v

end Sys2Proof.Machine
end

