-- ==== Sys2Proof/Config.lean ====
section
/-! DEFINITION. What the spec leaves open, as constants without a body: nothing can be proved about their values.
The two OPEN parameters are those of 00_scope.md R4. The opcode numbering, configuration too by 10_state.md R14 (d),
is fixed by 30_encoding.md R40 and stands in Decode.lean. -/

namespace Sys2Proof

/-- RESET_KIND (10_state.md R26): whether `rst` acts at once (true) or at the next rising edge of `clk` (false).
OPEN in the spec; log entry 6. -/
opaque Config.resetIsAsynchronous : Bool

/-- INVALID_OP_SNAPSHOT (60_exceptions.md R94), the byte `LR` holds after a failed request: any value, a fresh one for
each count. Log entry 4. -/
opaque Config.openLR : Nat → Byte

/-- INVALID_OP_SNAPSHOT (60_exceptions.md R94), the flags `LF` holds after a failed request: any value, fresh ones for
each count. Log entry 4. -/
opaque Config.openLF : Nat → Flags

/-- The output `y` while `err = 1`, unspecified (60_exceptions.md R93, 92_eei_decisions.md D4). Log entry 5. -/
opaque Config.openY : Nat → Byte

/-- The outputs `z`, `n`, `c`, `v` while `err = 1`, unspecified (60_exceptions.md R93, D4). Log entry 5. -/
opaque Config.openFlags : Nat → Flags

end Sys2Proof
end

