-- ==== Sys2Proof/Syntax.lean ====
section
/-! DEFINITION. The instructions: the six rows of spec/opcode_table.json, and no other (30_encoding.md R40, R48). -/

namespace Sys2Proof

/-- A decoded request. Every operation takes both operands, NOT included (30_encoding.md R39, R49). An operand is "any
integer" before stage 1 of the step reduces it to 8 bits (40_execute.md R53, R55; the source's OperandLike, 00_scope.md
R12), so a constructor carries integers; the operands a REQ19 word can carry are those of `Instr.wf`. -/
inductive Instr where
  | add (a b : Int)   -- 41_arithmetic.md R63
  | sub (a b : Int)   -- 41_arithmetic.md R64: `a` the minuend, `b` the subtrahend
  | and (a b : Int)   -- 42_logic.md R69
  | or  (a b : Int)   -- 42_logic.md R70
  | xor (a b : Int)   -- 42_logic.md R71
  | not (a b : Int)   -- 42_logic.md R72: `b` accepted and ignored
deriving DecidableEq, Repr

/-- The first operand, `a` of the request (30_encoding.md R39). -/
def Instr.fstOperand : Instr → Int
  | .add a _ => a
  | .sub a _ => a
  | .and a _ => a
  | .or a _ => a
  | .xor a _ => a
  | .not a _ => a

/-- The second operand, `b` of the request (30_encoding.md R39). -/
def Instr.sndOperand : Instr → Int
  | .add _ b => b
  | .sub _ b => b
  | .and _ b => b
  | .or _ b => b
  | .xor _ b => b
  | .not _ b => b

end Sys2Proof
end

