-- ==== Sys2Proof/WellFormed.lean ====
section
/-! DEFINITION. Which instructions a REQ19 word can carry: those whose operands are in 0..255 (30_encoding.md R42,
R44). An instruction that is not well formed is still executed, its operands masked (30_encoding.md R45); it only has
no word of its own. -/

namespace Sys2Proof

/-- An operand that fits the 8-bit ports unchanged: "the 8-bit range [0, 255]" (30_encoding.md R44). -/
def operandFits (x : Int) : Bool := decide (0 ≤ x) && decide (x ≤ 255)

/-- Both operand checks, for every operation alike; NOT's ignored `b` too is a field of the word (30_encoding.md R49). -/
def Instr.wf (i : Instr) : Bool := operandFits i.fstOperand && operandFits i.sndOperand

end Sys2Proof
end

