-- ==== Sys2Proof/Decode.lean ====
section
/-! DEFINITION. Decoding a request and encoding an instruction (30_encoding.md). The opcode numbers live here and
nowhere else (30_encoding.md R40). Decoding is total and names its one rejection, `InvalidOpcode`. -/

namespace Sys2Proof

/-- The closed enumeration of six operations (30_encoding.md R40). -/
inductive Opcode where
  | add | sub | and | or | xor | not
deriving DecidableEq, Repr

/-- Why a request does not decode: an opcode outside the six, with the offending value (60_exceptions.md R87, R88).
There is no other reason (60_exceptions.md R89). -/
inductive DecodeError where
  | invalidOpcode (op : Int)
deriving DecidableEq, Repr

/-- The instruction of an operation and its two operands (30_encoding.md R39). -/
def Opcode.instr : Opcode → Int → Int → Instr
  | .add, a, b => .add a b
  | .sub, a, b => .sub a b
  | .and, a, b => .and a b
  | .or, a, b => .or a b
  | .xor, a, b => .xor a b
  | .not, a, b => .not a b

/-- The operation of an instruction. -/
def Instr.opcode : Instr → Opcode
  | .add _ _ => .add
  | .sub _ _ => .sub
  | .and _ _ => .and
  | .or _ _ => .or
  | .xor _ _ => .xor
  | .not _ _ => .not

/-! ## Decoding -/

/-- The 3-bit `op` port: total on the eight patterns, two of which select nothing (30_encoding.md R41). -/
def decodePort (op : BitVec 3) : Option Opcode :=
  match op with
  | 0b000#3 => some .add
  | 0b001#3 => some .sub
  | 0b010#3 => some .and
  | 0b011#3 => some .or
  | 0b100#3 => some .xor
  | 0b101#3 => some .not
  | _ => none

/-- The adapter of a raw-integer boundary: it checks that the integer is one of 0..5 before it drives the port, and
never reduces it (30_encoding.md R46). -/
def decodeRaw (op : Int) : Option Opcode :=
  if 0 ≤ op ∧ op ≤ 5 then decodePort (BitVec.ofNat 3 op.toNat) else none

/-- A request of three integers (40_execute.md R53): the operands play no part in the rejection (60_exceptions.md
R87). -/
def decodeRequest (op a b : Int) : Except DecodeError Instr :=
  match decodeRaw op with
  | some o => .ok (o.instr a b)
  | none => .error (.invalidOpcode op)

/-- The three fields of a request word written as a number, `op * 65536 + a * 256 + b` (30_encoding.md R42). A number
of more than 19 bits has an `op` field above 7, which the decoder rejects like 6 and 7 (30_encoding.md R46; log entry
8). -/
def wordOp (w : Nat) : Int := ((w / 65536 : Nat) : Int)

/-- Bits 15:8 of a request word (30_encoding.md R42). -/
def wordA (w : Nat) : Int := ((w / 256 % 256 : Nat) : Int)

/-- Bits 7:0 of a request word (30_encoding.md R42). -/
def wordB (w : Nat) : Int := ((w % 256 : Nat) : Int)

/-- A request word given as a number of any size. -/
def decodeWord (w : Nat) : Except DecodeError Instr :=
  decodeRequest (wordOp w) (wordA w) (wordB w)

/-- A REQ19 word, sliced by bit positions: the operation by bits 18:16 alone (30_encoding.md R42, R43). -/
def decodeReq19 (w : BitVec 19) : Except DecodeError Instr :=
  match decodePort (w.extractLsb' 16 3) with
  | some o => .ok (o.instr ((w.extractLsb' 8 8).toNat : Int) ((w.extractLsb' 0 8).toNat : Int))
  | none => .error (.invalidOpcode ((w.extractLsb' 16 3).toNat : Int))

/-- The instruction the decoder reads from a word of the opcode table, `nbits` wide; none where it rejects. REQ19 has
no byte order (20_memory.md R29), so the table's number is the word. -/
def decodeTableWord (nbits w : Nat) : Option Instr :=
  match decodeWord (w % 2 ^ nbits) with
  | .ok i => some i
  | .error _ => none

/-! ## Encoding -/

/-- The opcode numbers as the 3-bit port has them (30_encoding.md R40, R41). -/
def encodePort : Opcode → BitVec 3
  | .add => 0b000#3
  | .sub => 0b001#3
  | .and => 0b010#3
  | .or => 0b011#3
  | .xor => 0b100#3
  | .not => 0b101#3

/-- The number of an opcode (30_encoding.md R40). -/
def encodeRaw (o : Opcode) : Int := ((encodePort o).toNat : Int)

/-- An operand's byte in the word. For a well-formed instruction it is the operand itself. -/
def encodeOperand (x : Int) : BitVec 8 := BitVec.ofInt 8 x

/-- The word of a well-formed instruction, `op` then `a` then `b`, most significant first (30_encoding.md R42). -/
def encode (i : Instr) : BitVec 19 :=
  encodePort i.opcode ++ encodeOperand i.fstOperand ++ encodeOperand i.sndOperand

end Sys2Proof
end

