-- ==== Sys2Proof/Machine/State.lean ====
section
/-! DEFINITION. The machine's state. `lr` and `lf` are the whole architectural state of ALU8 (10_state.md R13). The
other fields are the model's own: its fault mark, which 10_state.md R13 allows it, the host's side of the interface (what
it will do, what it has seen), and the counter of the free values. -/

namespace Sys2Proof.Machine

/-- An operand as a host's request gives it: an integer, or the token `LR` of 30_encoding.md R52, which the host
replaces by the value it reads from `LR`. The hardware never sees the token. -/
inductive HostOperand where
  | value (v : Int)
  | lastResult
deriving DecidableEq, Repr

/-- One `execute(a, b, opcode)`: three integers at the host's boundary (40_execute.md R53, 30_encoding.md R46). -/
structure Request where
  op : Int
  a : HostOperand
  b : HostOperand
deriving DecidableEq, Repr

/-- The input signals during one clock cycle (10_state.md R24), stable around its rising edge (70_reset_and_hazards.md
R108). -/
structure PortIn where
  a : Byte
  b : Byte
  op : BitVec 3
  exec : Bool
  rst : Bool
deriving DecidableEq, Repr

/-- The output signals of 10_state.md R24: the combinational `y`, `z`, `n`, `c`, `v` (as `alu`) and `err`, and the
registered `lr`, `lz`, `ln`, `lc`, `lv` (as `lr` and `lf`). -/
structure PortOut where
  alu : Response
  err : Bool
  lr : Byte
  lf : Flags
deriving DecidableEq, Repr

/-- What a host can do to the block (40_execute.md R115): present a request, read the snapshot, assert reset; and, at
the port level, drive the signals for one clock cycle (10_state.md R25, R26). -/
inductive Action where
  | request (r : Request)
  | read
  | reset
  | cycle (i : PortIn)
deriving DecidableEq, Repr

/-- What a host has seen or done, one entry for each action that did not fail: a response (40_execute.md R59), a
snapshot read (10_state.md R15, R16), a reset, a clock cycle with the outputs sampled in it. -/
inductive Event where
  | response (r : Response)
  | snapshot (lr : Byte) (lf : Flags)
  | reset
  | cycle (i : PortIn) (o : PortOut)
deriving DecidableEq, Repr

/-- The state. Plain data, every field comparable. -/
structure State where
  /-- `LR`, the last result (10_state.md R15). -/
  lr : Byte
  /-- `LF`, the last flags (10_state.md R16). -/
  lf : Flags
  /-- The model's fault mark (10_state.md R13, 60_exceptions.md R93): set by a failed request at the port level, never
  cleared. A failed request at the request level ends the run instead. -/
  faulted : Bool
  /-- The host's coming actions, oldest first (00_scope.md R5, 70_reset_and_hazards.md R112). Log entry 1. -/
  pending : List Action
  /-- What the host has collected, oldest first (70_reset_and_hazards.md R112). Log entry 2. -/
  seen : List Event
  /-- The counter of the free values of Config. Log entry 5. -/
  draws : Nat
deriving DecidableEq, Repr

/-- Why the machine stops. -/
inductive Fault where
  /-- `InvalidOpcode` with the offending opcode value (60_exceptions.md R87, R88). Raised by a step that takes a request
  whose opcode is none of the six; no instruction of the table raises it. Safe: nothing can be proved of what follows
  (60_exceptions.md R93, 92_eei_decisions.md D14). -/
  | invalidOpcode (op : Int)
deriving DecidableEq, Repr

/-- Why the model has no meaning for an instruction. -/
inductive Refusal where
  /-- An instruction of the table without a meaning yet. Raised by no arm of `exec`: all six have their meaning. Safe. -/
  | notModelled (mnemonic : String)
deriving DecidableEq, Repr

/-- What a step answers. -/
abbrev Result := Host.Outcome State Fault Refusal

/-- The snapshot right after reset: `LR = 0x00`, all four flags 0 (10_state.md R23, 70_reset_and_hazards.md R102). It is
the response of no request (10_state.md R23). -/
def resetSnapshot : Response := { y := 0x00#8, flags := { z := false, n := false, c := false, v := false } }

/-- The machine right after reset: the snapshot of 10_state.md R23, no fault, and a host that has neither presented nor
seen anything (log entries 1, 2, 5, 12). -/
def State.reset : State :=
  { lr := resetSnapshot.y
    lf := resetSnapshot.flags
    faulted := false
    pending := []
    seen := []
    draws := 0 }

end Sys2Proof.Machine
end

