-- ==== Sys2Proof/Machine/Operands.lean ====
section
/-! DEFINITION. The operand forms. The hardware has one, a plain value reduced to 8 bits (30_encoding.md R44, R45); the
host's notation adds the token `LR` (30_encoding.md R52). -/

namespace Sys2Proof.Machine

/-- Operand normalisation, `i mod 256` with the non-negative remainder (30_encoding.md R45, 00_scope.md R8, R9). It
cannot fail. For a negative integer the reading is the spec's general knowledge G1 (log entry 7). -/
def mask8 (i : Int) : Byte := BitVec.ofNat 8 (i % 256).toNat

/-- The value a host operand stands for when the request is presented: `LR` as the host reads it at that moment, an
unsigned value 0..255 (10_state.md R15, 30_encoding.md R52; log entry 9). -/
def HostOperand.resolve (x : HostOperand) (s : State) : Int :=
  match x with
  | .value v => v
  | .lastResult => (s.lr.toNat : Int)

/-- A request with two plain operands, the source's `execute(a, b, opcode)`. -/
def Request.plain (op a b : Int) : Request := { op := op, a := .value a, b := .value b }

/-- The notation `NOT a`, which means `b = 0` (30_encoding.md R51). -/
def Request.notOf (a : HostOperand) : Request := { op := encodeRaw .not, a := a, b := .value 0 }

/-- The request of a request word (30_encoding.md R42): its three fields, the opcode not reduced (R46). -/
def Request.ofWord (w : Nat) : Request := Request.plain (wordOp w) (wordA w) (wordB w)

end Sys2Proof.Machine
end

