-- ==== Sys2Proof/Machine/Ops.lean ====
section
/-! DEFINITION. The shared operations of a step: the stages of 40_execute.md R54, the snapshot update, reset, reading
the snapshot, and raising `InvalidOpcode`. -/

namespace Sys2Proof.Machine

/-! ## The stages of a step -/

/-- Stage 3, what a handler leaves: the result and, among flags cleared by stage 2, the carry it set (40_execute.md R56,
R57). The logical handlers set none. -/
def handled (y : Byte) (carry : Bool) : Response := { y := y, flags := { clearedFlags with c := carry } }

/-- Stage 4, for every opcode: Z and N from the result (40_execute.md R58). -/
def deriveZN (r : Response) : Response :=
  { r with flags := { r.flags with z := zeroFlag r.y, n := negativeFlag r.y } }

/-- Stage 5, for ADD and SUB only: V (40_execute.md R58); C keeps the value the handler gave it. -/
def deriveV (overflow : Bool) (r : Response) : Response :=
  { r with flags := { r.flags with v := overflow } }

/-- Stages 6 and 7: the response is handed to the host as a value and the snapshot is overwritten, all twelve bits at
once (40_execute.md R59, R60, 20_memory.md R31). The only state change a step makes. -/
def complete (r : Response) (s : State) : State :=
  { s with lr := r.y, lf := r.flags, seen := s.seen ++ [.response r] }

/-! ## The exception -/

/-- Raising `InvalidOpcode` at the request level: the step fails at once, no response, no next state; nothing is saved
and there is no handler (60_exceptions.md R87, R93; log entry 3). There is no return from it (60_exceptions.md R95). -/
def raiseInvalidOpcode (op : Int) : Result := .fault (.invalidOpcode op)

/-- The rejection of the decoder raised as the exception. -/
def raiseDecodeError (e : DecodeError) : Result :=
  match e with
  | .invalidOpcode op => raiseInvalidOpcode op

/-! ## What the host does besides requests -/

/-- Reset: the snapshot takes its reset values, whatever it was (70_reset_and_hazards.md R102). The fault mark stays
(60_exceptions.md R93; log entry 12). -/
def resetRegisters (s : State) : State := { s with lr := resetSnapshot.y, lf := resetSnapshot.flags }

/-- The request level's one `reset` action (10_state.md R26). -/
def hostReset (s : State) : State := { resetRegisters s with seen := s.seen ++ [.reset] }

/-- The host reads `LR` and `LF`; no side effect (10_state.md R15, R16, 70_reset_and_hazards.md R105). -/
def readSnapshot (s : State) : State := { s with seen := s.seen ++ [.snapshot s.lr s.lf] }

end Sys2Proof.Machine
end

