-- ==== Sys2Proof/Machine/Arithmetic.lean ====
section
/-! DEFINITION. ADD and SUB (41_arithmetic.md). -/

namespace Sys2Proof.Machine

/-- The ADD handler (41_arithmetic.md R63): the exact sum, its low byte, its carry. No carry-in (R66). -/
def addHandler (a8 b8 : Byte) : Response :=
  let raw : Int := (a8.toNat : Int) + (b8.toNat : Int)
  handled (mask8 raw) (carryOfSum raw)

/-- The SUB handler (41_arithmetic.md R64): minuend less subtrahend, its low byte, its borrow. No borrow-in (R66). -/
def subHandler (a8 b8 : Byte) : Response :=
  let raw : Int := (a8.toNat : Int) - (b8.toNat : Int)
  handled (mask8 raw) (borrowOfDifference raw)

/-- ADD as a function of the request (40_execute.md R62, 41_arithmetic.md R63). -/
def aluAdd (a b : Int) : Response :=
  let h := deriveZN (addHandler (mask8 a) (mask8 b))
  deriveV (overflowOfAdd (mask8 a) (mask8 b) h.y) h

/-- SUB as a function of the request (40_execute.md R62, 41_arithmetic.md R64). -/
def aluSub (a b : Int) : Response :=
  let h := deriveZN (subHandler (mask8 a) (mask8 b))
  deriveV (overflowOfSub (mask8 a) (mask8 b) h.y) h

/-- ADD (41_arithmetic.md R63). -/
def execAdd (a b : Int) (s : State) : Result := .next (complete (aluAdd a b) s)

/-- SUB (41_arithmetic.md R64). -/
def execSub (a b : Int) (s : State) : Result := .next (complete (aluSub a b) s)

end Sys2Proof.Machine
end

