-- ==== Sys2Proof/Machine/Logic.lean ====
section
/-! DEFINITION. AND, OR, XOR and NOT (42_logic.md). Their handlers set no carry and stage 5 does nothing for them, so C
and V stay cleared (42_logic.md R73, 43_flags.md R81, R84). -/

namespace Sys2Proof.Machine

/-- The AND handler (42_logic.md R69). -/
def andHandler (a8 b8 : Byte) : Response := handled (a8 &&& b8) false

/-- The OR handler (42_logic.md R70). -/
def orHandler (a8 b8 : Byte) : Response := handled (a8 ||| b8) false

/-- The XOR handler (42_logic.md R71). -/
def xorHandler (a8 b8 : Byte) : Response := handled (a8 ^^^ b8) false

/-- The NOT handler: the second operand is accepted and ignored (42_logic.md R72, 30_encoding.md R49). -/
def notHandler (a8 _b8 : Byte) : Response := handled (~~~a8) false

/-- AND as a function of the request (40_execute.md R62). -/
def aluAnd (a b : Int) : Response := deriveZN (andHandler (mask8 a) (mask8 b))

/-- OR as a function of the request (40_execute.md R62). -/
def aluOr (a b : Int) : Response := deriveZN (orHandler (mask8 a) (mask8 b))

/-- XOR as a function of the request (40_execute.md R62). -/
def aluXor (a b : Int) : Response := deriveZN (xorHandler (mask8 a) (mask8 b))

/-- NOT as a function of the request (40_execute.md R62). -/
def aluNot (a b : Int) : Response := deriveZN (notHandler (mask8 a) (mask8 b))

/-- AND (42_logic.md R69). -/
def execAnd (a b : Int) (s : State) : Result := .next (complete (aluAnd a b) s)

/-- OR (42_logic.md R70). -/
def execOr (a b : Int) (s : State) : Result := .next (complete (aluOr a b) s)

/-- XOR (42_logic.md R71). -/
def execXor (a b : Int) (s : State) : Result := .next (complete (aluXor a b) s)

/-- NOT (42_logic.md R72). -/
def execNot (a b : Int) (s : State) : Result := .next (complete (aluNot a b) s)

end Sys2Proof.Machine
end

