-- ==== Sys2Proof/Machine/Ports.lean ====
section
/-! DEFINITION. The port level (10_state.md R24 to R26): the combinational function of the inputs, the outputs, and what
one rising edge of `clk` does to the snapshot register. -/

namespace Sys2Proof.Machine

/-- `ALU(a, b, opcode)` of 40_execute.md R62, for the six opcodes: reads no state. -/
def alu (o : Opcode) (a b : Int) : Response :=
  match o with
  | .add => aluAdd a b
  | .sub => aluSub a b
  | .and => aluAnd a b
  | .or => aluOr a b
  | .xor => aluXor a b
  | .not => aluNot a b

/-- The combinational outputs `y, z, n, c, v`: the function of the current inputs, whatever `exec`, `rst` and the
registers are (10_state.md R24, 70_reset_and_hazards.md R103); unspecified while `err = 1` (60_exceptions.md R93; log
entry 5). -/
def combinational (i : PortIn) (draw : Nat) : Response :=
  match decodePort i.op with
  | some o => alu o (i.a.toNat : Int) (i.b.toNat : Int)
  | none => { y := Config.openY draw, flags := Config.openFlags draw }

/-- `err`: 1 iff `op[2:1] = 0b11` (60_exceptions.md R88). -/
def errLine (op : BitVec 3) : Bool := op.getLsbD 2 && op.getLsbD 1

/-- The outputs a host samples in a clock cycle, settled, before its rising edge (70_reset_and_hazards.md R108; log
entry 10). With `rst` asserted the registered outputs show the reset values already if reset is asynchronous
(10_state.md R26; log entry 6). -/
def portOutputs (i : PortIn) (s : State) : PortOut :=
  let resetShows := i.rst && Config.resetIsAsynchronous
  { alu := combinational i s.draws
    err := errLine i.op
    lr := if resetShows then resetSnapshot.y else s.lr
    lf := if resetShows then resetSnapshot.flags else s.lf }

/-- A failed request at the port level: `LR` and `LF` are any value, the run is marked faulted, the hardware goes on
(60_exceptions.md R93, R94, R95; log entry 4). -/
def portInvalidOpcode (s : State) : State :=
  { s with lr := Config.openLR s.draws, lf := Config.openLF s.draws, faulted := true }

/-- One rising edge of `clk` on the snapshot register (10_state.md R25, R26): reset wins, `exec = 0` holds, `exec = 1`
loads all twelve bits from the combinational outputs unless `err = 1`. -/
def clockEdge (i : PortIn) (s : State) : State :=
  if i.rst then resetRegisters s
  else if i.exec then
    if errLine i.op then portInvalidOpcode s
    else { s with lr := (combinational i s.draws).y, lf := (combinational i s.draws).flags }
  else s

/-- The count after a cycle: a cycle with `err = 1` has used one value of each open constant. -/
def drawsAfter (i : PortIn) (s : State) : Nat := if errLine i.op then s.draws + 1 else s.draws

/-- One clock cycle: the host samples the outputs, then the edge happens. -/
def portCycle (i : PortIn) (s : State) : State :=
  { clockEdge i s with draws := drawsAfter i s, seen := s.seen ++ [.cycle i (portOutputs i s)] }

end Sys2Proof.Machine
end

