-- ==== Sys2Proof/Machine/Requests.lean ====
section
/-! DEFINITION. What each host action does to the machine (40_execute.md R115, 10_state.md R25, R26). -/

namespace Sys2Proof.Machine

/-- The instruction a request stands for when it is presented in `s`, or its rejection (30_encoding.md R46, R52). -/
def Request.decoded (r : Request) (s : State) : Except DecodeError Instr :=
  decodeRequest r.op (r.a.resolve s) (r.b.resolve s)

/-- One `execute(a, b, opcode)` (40_execute.md R53, R62): the six operations complete, any other opcode raises
`InvalidOpcode`. -/
def presentRequest (r : Request) (s : State) : Result :=
  match r.decoded s with
  | .ok i => exec i s
  | .error e => raiseDecodeError e

/-- One action of the host. -/
def performAction (act : Action) (s : State) : Result :=
  match act with
  | .request r => presentRequest r s
  | .read => .next (readSnapshot s)
  | .reset => .next (hostReset s)
  | .cycle i => .next (portCycle i s)

/-- The host's next action is the request of the word `w`, ahead of what it had in mind. -/
def presentWordNext (s : State) (w : Nat) : State :=
  { s with pending := .request (Request.ofWord w) :: s.pending }

end Sys2Proof.Machine
end

