-- ==== Sys2Proof/Machine/Step.lean ====
section
/-! DEFINITION. One step: the host's next action, taken off the list and performed. -/

namespace Sys2Proof.Machine

/-- One step. Actions take effect one at a time, in the order the host presents them (20_memory.md R34); with nothing
presented the block is idle and its state is retained (60_exceptions.md R101; log entry 11). -/
def step (s : State) : Host.Outcome State Fault Refusal :=
  match s.pending with
  | [] => .next s
  | act :: rest => performAction act { s with pending := rest }

/-- The state in which the very next step presents the request of the table word `w`, `nbits` wide. ALU8 fetches
nothing (10_state.md R18): the host presents the request (log entry 1). -/
def State.withFetchWord (s : State) (nbits w : Nat) : State := presentWordNext s (w % 2 ^ nbits)

end Sys2Proof.Machine
end

