-- ==== Sys2Proof/Safety.lean ====
section
/-! DEFINITION. What counts as a safe run, in the terms the statements use: the host's duty (60_exceptions.md R90), the
fault mark (R93), and the snapshot invariant (10_state.md R22). -/

namespace Sys2Proof.Machine

/-- The host's duty for one action: an opcode it asks to be executed is one of the six (60_exceptions.md R90). -/
def Action.keepsDuty : Action → Bool
  | .request r => decide (0 ≤ r.op ∧ r.op ≤ 5)
  | .read => true
  | .reset => true
  | .cycle i => i.rst || !i.exec || decide (i.op.toNat ≤ 5)

/-- The host keeps its duty in everything it is going to do. -/
def State.hostKeepsDuty (s : State) : Bool := s.pending.all Action.keepsDuty

/-- What one event tells of the snapshot: a response is the snapshot, a reset gives the reset values, a read changes
nothing, a clock cycle loads what its outputs showed, and after a failed request nothing is known (10_state.md R22, R25,
R26, 60_exceptions.md R94). -/
def snapshotAfter (known : Option Response) (e : Event) : Option Response :=
  match e with
  | .response r => some r
  | .snapshot _ _ => known
  | .reset => some resetSnapshot
  | .cycle i o =>
    if i.rst then some resetSnapshot
    else if i.exec then (if o.err then none else some o.alu)
    else known

/-- What the host's record says the snapshot is: the outcome of the latest completed request, or the reset values; none
if a request has failed since. -/
def snapshotFromRecord (seen : List Event) : Option Response := seen.foldl snapshotAfter (some resetSnapshot)

/-- The snapshot `(LR, LF)` of a state. -/
def State.snapshot (s : State) : Response := { y := s.lr, flags := s.lf }

/-- The snapshot invariant (10_state.md R22). -/
def State.SnapshotInv (s : State) : Prop := ∀ r, snapshotFromRecord s.seen = some r → s.snapshot = r

/-- Z and N report the result (43_flags.md R77, R78), as in every response. -/
def ZNReportResult (r : Response) : Prop :=
  r.flags.z = decide (r.y = 0x00#8) ∧ r.flags.n = r.y.getLsbD 7

/-- What 10_state.md R22 derives of the snapshot: Z and N report it, unless it is the reset snapshot (which does not: its
Z is 0, R23) or the run is marked faulted. -/
def State.ZNInv (s : State) : Prop :=
  s.faulted = true ∨ s.snapshot = resetSnapshot ∨ ZNReportResult s.snapshot

/-- `i` run in `s` ends in the next state `t`: the snapshot is overwritten, the host is handed exactly the new snapshot
as the response, and nothing else changes (40_execute.md R59, R60). What the snapshot is, each operation's rule says. -/
def Completes (i : Instr) (s t : State) : Prop :=
  exec i s = .next t ∧
  t = { s with lr := t.lr, lf := t.lf, seen := s.seen ++ [.response t.snapshot] }

/-- A state a claim may be about: no fault recorded, and a host that keeps its duty (60_exceptions.md R90, R93). -/
def State.Claimable (s : State) : Prop := s.faulted = false ∧ s.hostKeepsDuty = true

end Sys2Proof.Machine
end

