-- ==== Sys2Proof/Certificates/Slice0/Obligations.lean ====
section
/-! DEFINITION. The statements for the provers. Each docstring names the rule of spec/ it formalises; where a clause is the
model's choice it names the log entry. `Completes i s t` (Safety.lean) says that `exec i s` answers the next state `t`,
that the host is handed `t`'s snapshot as the response, and that nothing else of `s` has changed. -/

open Sys2Proof Sys2Proof.Machine

/-! ## Encoding -/

/-- Words written out from the field table of REQ19 (30_encoding.md section 1), one for each operation, and two illegal
ones. -/
def Obligations.RequestWordsDecodeAsTabled : Prop :=
  decodeReq19 0b000_11001000_01100100#19 = .ok (.add 200 100) ∧
  decodeReq19 0b001_00000101_00001010#19 = .ok (.sub 5 10) ∧
  decodeReq19 0b010_10101100_11110000#19 = .ok (.and 0xAC 0xF0) ∧
  decodeReq19 0b011_00000001_00000010#19 = .ok (.or 1 2) ∧
  decodeReq19 0b100_00001111_00000101#19 = .ok (.xor 0x0F 0x05) ∧
  decodeReq19 0b101_00000001_11111111#19 = .ok (.not 1 255) ∧
  decodeReq19 0b110_00000001_00000010#19 = .error (.invalidOpcode 6) ∧
  decodeReq19 0b111_11111111_11111111#19 = .error (.invalidOpcode 7)

/-- R41: the port's table, its two empty patterns raising `InvalidOpcode`, and its inverse on the six. -/
def Obligations.OpPortSelectsTheSixOperations : Prop :=
  decodePort 0b000#3 = some .add ∧ decodePort 0b001#3 = some .sub ∧ decodePort 0b010#3 = some .and ∧
  decodePort 0b011#3 = some .or ∧ decodePort 0b100#3 = some .xor ∧ decodePort 0b101#3 = some .not ∧
  (∀ op : BitVec 3, decodePort op = none ↔ op = 0b110#3 ∨ op = 0b111#3) ∧
  (∀ (op : BitVec 3) (a b : Int) (s : State) (rest : List Action), decodePort op = none →
    step { s with pending := .request (Request.plain (op.toNat : Int) a b) :: rest } =
      .fault (.invalidOpcode (op.toNat : Int))) ∧
  (∀ o : Opcode, decodePort (encodePort o) = some o) ∧
  (∀ (op : BitVec 3) (o : Opcode), decodePort op = some o → encodePort o = op)

/-- No bit of a well-formed instruction is lost in its word, for every operation and every operand the word admits. -/
def Obligations.DecodeUndoesEncode : Prop :=
  ∀ i : Instr, i.wf = true → decodeReq19 (encode i) = .ok i

/-- The other direction: a legal word is the word of the instruction it decodes to, which is well formed. -/
def Obligations.EncodeUndoesDecode : Prop :=
  ∀ (w : BitVec 19) (i : Instr), decodeReq19 w = .ok i → i.wf = true ∧ encode i = w

/-- R43: the mask and the six matches; bits 15:0 never select; every operand pair is legal for every opcode; the illegal
words are `0x60000` to `0x7FFFF`. -/
def Obligations.OpcodeFieldAloneSelects : Prop :=
  (∀ w : BitVec 19,
    (w &&& 0x70000#19 = 0x00000#19 ↔ ∃ a b, decodeReq19 w = .ok (.add a b)) ∧
    (w &&& 0x70000#19 = 0x10000#19 ↔ ∃ a b, decodeReq19 w = .ok (.sub a b)) ∧
    (w &&& 0x70000#19 = 0x20000#19 ↔ ∃ a b, decodeReq19 w = .ok (.and a b)) ∧
    (w &&& 0x70000#19 = 0x30000#19 ↔ ∃ a b, decodeReq19 w = .ok (.or a b)) ∧
    (w &&& 0x70000#19 = 0x40000#19 ↔ ∃ a b, decodeReq19 w = .ok (.xor a b)) ∧
    (w &&& 0x70000#19 = 0x50000#19 ↔ ∃ a b, decodeReq19 w = .ok (.not a b)) ∧
    (0x60000 ≤ w.toNat ↔ ∃ e, decodeReq19 w = .error e)) ∧
  (∀ (o : Opcode) (a b : Byte),
    decodeReq19 (encodePort o ++ a ++ b) = .ok (o.instr (a.toNat : Int) (b.toNat : Int)))

/-- R42: the word's value, its range, its example, and that reading it as a number or by bit slices is the same. -/
def Obligations.RequestWordPacksTheFields : Prop :=
  (∀ i : Instr, i.wf = true →
    ((encode i).toNat : Int) = encodeRaw i.opcode * 65536 + i.fstOperand * 256 + i.sndOperand ∧
    (encode i).toNat ≤ 0x7FFFF) ∧
  (∀ (op : BitVec 3) (a b : Byte), (op ++ a ++ b).toNat = op.toNat * 65536 + a.toNat * 256 + b.toNat) ∧
  encode (.add 200 100) = 0x0C864#19 ∧
  (∀ w : BitVec 19, decodeWord w.toNat = decodeReq19 w)

/-- R46: at a raw-integer boundary every integer other than 0..5 raises `InvalidOpcode`, unreduced; 0..5 never do. -/
def Obligations.RawOpcodeIsNeverReduced : Prop :=
  ∀ (op : Int) (a b : HostOperand) (s : State) (rest : List Action),
    (¬ (0 ≤ op ∧ op ≤ 5) →
      decodeRaw op = none ∧
      step { s with pending := .request { op := op, a := a, b := b } :: rest } = .fault (.invalidOpcode op)) ∧
    (0 ≤ op ∧ op ≤ 5 →
      decodeRaw op = decodePort (BitVec.ofInt 3 op) ∧
      ∃ t, step { s with pending := .request { op := op, a := a, b := b } :: rest } = .next t)

/-! ## The step -/

/-- A step runs the instruction that the presented request, or the presented word, decodes to, with the action taken off
the host's list and nothing else around `exec` (model's convention: log entries 1 and 8); a word that decodes to nothing
raises `InvalidOpcode` with its opcode field. -/
def Obligations.StepRunsDecodedInstruction : Prop :=
  (∀ (s : State) (r : Request) (rest : List Action) (i : Instr),
    s.pending = .request r :: rest → r.decoded s = .ok i → step s = exec i { s with pending := rest }) ∧
  (∀ (s : State) (nbits w : Nat) (i : Instr),
    decodeTableWord nbits w = some i → step (s.withFetchWord nbits w) = exec i s) ∧
  (∀ (s : State) (nbits w : Nat),
    decodeTableWord nbits w = none →
      step (s.withFetchWord nbits w) = .fault (.invalidOpcode ((w % 2 ^ nbits / 65536 : Nat) : Int))) ∧
  (∀ (s : State) (i : Instr), i.wf = true → step (s.withFetchWord 19 (encode i).toNat) = exec i s)

/-- R60: every instruction completes; the snapshot takes the response's result and flags, and that is the only change of
state (the host's record gains the response, log entry 2). -/
def Obligations.CompletedRequestWritesOnlyTheSnapshot : Prop :=
  ∀ (i : Instr) (s : State), ∃ t, Completes i s t

/-- No instruction fails, whatever its operands and whatever the state; a step fails only on a request whose opcode is none
of the six, always as `InvalidOpcode`, and nothing is refused (60_exceptions.md section 1). That a clock cycle which samples
an invalid opcode is no fault, but goes on under the mark, is the model's choice, log entry 4; that a request ends the run
in the fault is log entry 3. -/
def Obligations.OnlyInvalidOpcodeFails : Prop :=
  (∀ (i : Instr) (s : State), ∃ t, exec i s = .next t) ∧
  (∀ (s : State) (f : Fault), step s = .fault f →
    ∃ r rest, s.pending = .request r :: rest ∧ ¬ (0 ≤ r.op ∧ r.op ≤ 5) ∧ f = .invalidOpcode r.op) ∧
  (∀ (s : State) (x : Refusal), step s ≠ .refused x)

/-- R11: the response of a request with a valid opcode is a function of the request alone, whatever the state. -/
def Obligations.ResponseIsFunctionOfRequestAlone : Prop :=
  ∀ op a b : Int, 0 ≤ op → op ≤ 5 →
    ∃ r : Response, ∀ (s : State) (rest : List Action),
      step { s with pending := .request (Request.plain op a b) :: rest } =
        .next { s with lr := r.y, lf := r.flags, pending := rest, seen := s.seen ++ [.response r] }

/-- The source's masking property (95_test_vectors.md T9, 30_encoding.md R45), for both operands and every opcode. For
negative integers the `mod 256` reading is the spec's general knowledge G1 (log entry 7). -/
def Obligations.OperandsAreMaskedModulo256 : Prop :=
  ∀ (op a b : Int) (s : State) (rest : List Action),
    step { s with pending := .request (Request.plain op a b) :: rest } =
      step { s with pending := .request (Request.plain op (a % 256) (b % 256)) :: rest }

/-- The token `LR` stands for the value the host reads from `LR` just before the request (30_encoding.md section 4; that
the model's step does the reading is log entry 9). -/
def Obligations.LastResultTokenIsTheValueRead : Prop :=
  ∀ (op : Int) (x : HostOperand) (s : State) (rest : List Action),
    step { s with pending := .request { op := op, a := .lastResult, b := x } :: rest } =
      step { s with pending := .request { op := op, a := .value (s.lr.toNat : Int), b := x } :: rest } ∧
    step { s with pending := .request { op := op, a := x, b := .lastResult } :: rest } =
      step { s with pending := .request { op := op, a := x, b := .value (s.lr.toNat : Int) } :: rest }

/-! ## The six operations -/

/-- R63, with its carry R79 and its overflow R82: encoding, result, all four flags, the 9-bit form, the excess of exactly
256 that C reports, the gate form of V, and completion in every state. -/
def Obligations.AddGivesSumAndFlags : Prop :=
  (∀ a8 b8 : Byte, encode (.add (a8.toNat : Int) (b8.toNat : Int)) = 0b000#3 ++ a8 ++ b8) ∧
  ∀ (a b : Int) (a8 b8 : Byte) (s : State), a8 = mask8 a → b8 = mask8 b →
    ∃ t, Completes (.add a b) s t ∧
      t.lr.toNat = (a8.toNat + b8.toNat) % 256 ∧
      t.lf.z = decide ((a8.toNat + b8.toNat) % 256 = 0) ∧
      t.lf.n = t.lr.getLsbD 7 ∧
      t.lf.c = decide (255 < a8.toNat + b8.toNat) ∧
      t.lf.v = ((a8.getLsbD 7 == b8.getLsbD 7) && (t.lr.getLsbD 7 != a8.getLsbD 7)) ∧
      t.lr = (a8.zeroExtend 9 + b8.zeroExtend 9).extractLsb' 0 8 ∧
      t.lf.c = (a8.zeroExtend 9 + b8.zeroExtend 9).getLsbD 8 ∧
      t.lr.toNat + 256 * t.lf.c.toNat = a8.toNat + b8.toNat ∧
      t.lf.v = (!(a8.getLsbD 7 ^^ b8.getLsbD 7) && (a8.getLsbD 7 ^^ t.lr.getLsbD 7))

/-- R64, with its borrow R80 and its overflow R83: encoding, result, all four flags, the 9-bit form, the adder form, the
excess of exactly 256 that C reports, the gate form of V, where V differs from that of adding the negated operand, and
completion in every state. -/
def Obligations.SubGivesDifferenceAndFlags : Prop :=
  (∀ a8 b8 : Byte, encode (.sub (a8.toNat : Int) (b8.toNat : Int)) = 0b001#3 ++ a8 ++ b8) ∧
  ∀ (a b : Int) (a8 b8 : Byte) (s : State), a8 = mask8 a → b8 = mask8 b →
    ∃ t, Completes (.sub a b) s t ∧
      (t.lr.toNat : Int) = ((a8.toNat : Int) - (b8.toNat : Int)) % 256 ∧
      t.lf.z = decide (a8 = b8) ∧
      t.lf.n = t.lr.getLsbD 7 ∧
      t.lf.c = decide ((a8.toNat : Int) - (b8.toNat : Int) < 0) ∧
      t.lf.v = ((a8.getLsbD 7 != b8.getLsbD 7) && (t.lr.getLsbD 7 != a8.getLsbD 7)) ∧
      t.lr = (a8.zeroExtend 9 - b8.zeroExtend 9).extractLsb' 0 8 ∧
      t.lf.c = (a8.zeroExtend 9 - b8.zeroExtend 9).getLsbD 8 ∧
      t.lr = (a8.zeroExtend 9 + (~~~b8).zeroExtend 9 + 1#9).extractLsb' 0 8 ∧
      t.lf.c = !(a8.zeroExtend 9 + (~~~b8).zeroExtend 9 + 1#9).getLsbD 8 ∧
      t.lf.c = decide (a8.toNat < b8.toNat) ∧
      (t.lr.toNat : Int) - 256 * (t.lf.c.toNat : Int) = (a8.toNat : Int) - (b8.toNat : Int) ∧
      t.lf.v = ((a8.getLsbD 7 ^^ b8.getLsbD 7) && (a8.getLsbD 7 ^^ t.lr.getLsbD 7)) ∧
      (∀ u, exec (.add (a8.toNat : Int) ((0#8 - b8).toNat : Int)) s = .next u →
        u.lr = t.lr ∧ (u.lf.v ≠ t.lf.v ↔ b8 = 128#8) ∧ (u.lf.c = !t.lf.c ↔ b8 ≠ 0#8))

/-- R69: encoding, result bit by bit, all four flags, and completion in every state. -/
def Obligations.AndGivesConjunctionOfBits : Prop :=
  (∀ a8 b8 : Byte, encode (.and (a8.toNat : Int) (b8.toNat : Int)) = 0b010#3 ++ a8 ++ b8) ∧
  ∀ (a b : Int) (a8 b8 : Byte) (s : State), a8 = mask8 a → b8 = mask8 b →
    ∃ t, Completes (.and a b) s t ∧
      (∀ k : Nat, k < 8 → t.lr.getLsbD k = (a8.getLsbD k && b8.getLsbD k)) ∧
      t.lf.z = decide (t.lr.toNat = 0) ∧
      t.lf.n = (a8.getLsbD 7 && b8.getLsbD 7) ∧
      t.lf.c = false ∧ t.lf.v = false

/-- R70: encoding, result bit by bit, all four flags, and completion in every state. -/
def Obligations.OrGivesDisjunctionOfBits : Prop :=
  (∀ a8 b8 : Byte, encode (.or (a8.toNat : Int) (b8.toNat : Int)) = 0b011#3 ++ a8 ++ b8) ∧
  ∀ (a b : Int) (a8 b8 : Byte) (s : State), a8 = mask8 a → b8 = mask8 b →
    ∃ t, Completes (.or a b) s t ∧
      (∀ k : Nat, k < 8 → t.lr.getLsbD k = (a8.getLsbD k || b8.getLsbD k)) ∧
      t.lf.z = decide (a8.toNat = 0 ∧ b8.toNat = 0) ∧
      t.lf.n = (a8.getLsbD 7 || b8.getLsbD 7) ∧
      t.lf.c = false ∧ t.lf.v = false

/-- R71: encoding, result bit by bit, all four flags, and completion in every state. -/
def Obligations.XorGivesDifferenceOfBits : Prop :=
  (∀ a8 b8 : Byte, encode (.xor (a8.toNat : Int) (b8.toNat : Int)) = 0b100#3 ++ a8 ++ b8) ∧
  ∀ (a b : Int) (a8 b8 : Byte) (s : State), a8 = mask8 a → b8 = mask8 b →
    ∃ t, Completes (.xor a b) s t ∧
      (∀ k : Nat, k < 8 → t.lr.getLsbD k = (a8.getLsbD k != b8.getLsbD k)) ∧
      t.lf.z = decide (a8 = b8) ∧
      t.lf.n = (a8.getLsbD 7 != b8.getLsbD 7) ∧
      t.lf.c = false ∧ t.lf.v = false

/-- R72: encoding for every value of the ignored field, result bit by bit and as `255 - a8`, all four flags, and completion
in every state; no clause mentions `b8` but the encoding. -/
def Obligations.NotGivesComplementOfFirstOperand : Prop :=
  (∀ a8 b8 : Byte, encode (.not (a8.toNat : Int) (b8.toNat : Int)) = 0b101#3 ++ a8 ++ b8) ∧
  ∀ (a b : Int) (a8 : Byte) (s : State), a8 = mask8 a →
    ∃ t, Completes (.not a b) s t ∧
      (∀ k : Nat, k < 8 → t.lr.getLsbD k = !a8.getLsbD k) ∧
      t.lr.toNat = 255 - a8.toNat ∧
      t.lr = a8 ^^^ 0xFF#8 ∧
      t.lr.toInt = - a8.toInt - 1 ∧
      t.lf.z = decide (a8 = 0xFF#8) ∧
      t.lf.n = !a8.getLsbD 7 ∧
      t.lf.c = false ∧ t.lf.v = false

/-- R49: NOT takes every second operand and its outcome is the same for all of them; where the notation omits it the word
carries 0. -/
def Obligations.NotIgnoresItsSecondOperand : Prop :=
  (∀ a8 b8 : Byte, decodeReq19 (0b101#3 ++ a8 ++ b8) = .ok (.not (a8.toNat : Int) (b8.toNat : Int))) ∧
  (∀ (a b b' : Int) (s : State), exec (.not a b) s = exec (.not a b') s) ∧
  (∀ (a b : Int) (s : State), ∃ t, exec (.not a b) s = .next t) ∧
  (∀ (a : HostOperand) (s : State), (Request.notOf a).decoded s = .ok (.not (a.resolve s) 0))

/-- R77 and R78: for all six operations Z is "all eight bits of the result are 0" and N is bit 7 of the result, whatever
the flags were; the examples of both rules. -/
def Obligations.ZeroAndNegativeReportTheResult : Prop :=
  (∀ (i : Instr) (s : State), ∃ t, Completes i s t ∧
    t.lf.z = decide (t.lr = 0#8) ∧
    t.lf.z = !(t.lr.getLsbD 7 || t.lr.getLsbD 6 || t.lr.getLsbD 5 || t.lr.getLsbD 4 ||
      t.lr.getLsbD 3 || t.lr.getLsbD 2 || t.lr.getLsbD 1 || t.lr.getLsbD 0) ∧
    t.lf.n = t.lr.getLsbD 7 ∧
    t.lf.n = decide (t.lr &&& 0x80#8 ≠ 0#8)) ∧
  (∀ s : State,
    (∃ t, exec (.add 255 1) s = .next t ∧ t.lr = 0#8 ∧ t.lf.z = true ∧ t.lf.c = true) ∧
    (∃ t, exec (.or 0x80 0) s = .next t ∧ t.lf.n = true) ∧
    (∃ t, exec (.add 100 50) s = .next t ∧ t.lr = 150#8 ∧ t.lf.n = true))

/-- R73, R81 and R84: a logical operation writes C = 0 and V = 0 whatever they were before, and its flags, read ZNCV, are
one of 0000, 0100, 1000. -/
def Obligations.LogicalOperationsClearCarryAndOverflow : Prop :=
  ∀ (i : Instr) (s : State), i.opcode = .and ∨ i.opcode = .or ∨ i.opcode = .xor ∨ i.opcode = .not →
    ∃ t, Completes i s t ∧
      t.lf.c = false ∧ t.lf.v = false ∧
      t.lf.z = decide (t.lr = 0#8) ∧ t.lf.n = t.lr.getLsbD 7 ∧
      (packFlags t.lf = 0b0000#4 ∨ packFlags t.lf = 0b0100#4 ∨ packFlags t.lf = 0b1000#4)

/-! ## What the flags mean -/

/-- The meanings of 43_flags.md section 5, (a) to (e): C as the unsigned and V as the signed overflow report, V from the
carry into bit 7, the comparisons that SUB makes, and the true sign of a signed result. -/
def Obligations.ArithmeticFlagsReportOverflowAndOrder : Prop :=
  (∀ (a b : Byte) (s t : State), exec (.add (a.toNat : Int) (b.toNat : Int)) s = .next t →
    (t.lf.c = true ↔ ¬ (a.toNat + b.toNat ≤ 255)) ∧
    (t.lf.v = true ↔ ¬ (-128 ≤ a.toInt + b.toInt ∧ a.toInt + b.toInt ≤ 127)) ∧
    t.lf.v = (decide (127 < a.toNat % 128 + b.toNat % 128) ^^ t.lf.c) ∧
    ((t.lf.n ^^ t.lf.v) = true ↔ a.toInt + b.toInt < 0) ∧
    t.lr.toInt = (a.toInt + b.toInt).bmod 256) ∧
  (∀ (a b : Byte) (s t : State), exec (.sub (a.toNat : Int) (b.toNat : Int)) s = .next t →
    (t.lf.c = true ↔ ¬ (0 ≤ (a.toNat : Int) - (b.toNat : Int))) ∧
    (t.lf.v = true ↔ ¬ (-128 ≤ a.toInt - b.toInt ∧ a.toInt - b.toInt ≤ 127)) ∧
    t.lf.v = (decide (a.toNat % 128 < b.toNat % 128) ^^ t.lf.c) ∧
    ((t.lf.n ^^ t.lf.v) = true ↔ a.toInt - b.toInt < 0) ∧
    t.lr.toInt = (a.toInt - b.toInt).bmod 256 ∧
    (t.lf.n ≠ t.lf.v ↔ a.toInt < b.toInt) ∧
    (t.lf.z = true ↔ a = b) ∧
    (t.lf.c = true ↔ a.toNat < b.toNat))

/-- The flag sets, read ZNCV, that each operation can produce, and that it produces each of them (the table of 43_flags.md
section 5, without its counts). -/
def Obligations.ReachableFlagSets : Prop :=
  ∀ (o : Opcode) (f : BitVec 4),
    (∃ (a b : Int) (s t : State), exec (o.instr a b) s = .next t ∧ packFlags t.lf = f) ↔
      f ∈ (match o with
        | .add => [0b0000#4, 0b0010#4, 0b0011#4, 0b0100#4, 0b0101#4, 0b0110#4, 0b1000#4, 0b1010#4, 0b1011#4]
        | .sub => [0b0000#4, 0b0001#4, 0b0010#4, 0b0100#4, 0b0110#4, 0b0111#4, 0b1000#4]
        | .and => [0b0000#4, 0b0100#4, 0b1000#4]
        | .or => [0b0000#4, 0b0100#4, 0b1000#4]
        | .xor => [0b0000#4, 0b0100#4, 0b1000#4]
        | .not => [0b0000#4, 0b0100#4, 0b1000#4])

/-- The laws of 41_arithmetic.md and 42_logic.md between operations: ADD commutes in its whole response, SUB undoes ADD,
XOR with 0xFF and NOT answer alike, NOT answers like SUB from 0xFF, NOT undoes itself, AND and OR of a byte with itself
give it back, XOR gives 0. -/
def Obligations.OperationsObeyTheirLaws : Prop :=
  ∀ (x y : Byte),
    alu .add (x.toNat : Int) (y.toNat : Int) = alu .add (y.toNat : Int) (x.toNat : Int) ∧
    (alu .sub ((alu .add (x.toNat : Int) (y.toNat : Int)).y.toNat : Int) (y.toNat : Int)).y = x ∧
    (∀ z : Int, alu .xor (x.toNat : Int) 0xFF = alu .not (x.toNat : Int) z) ∧
    (∀ z : Int, alu .sub 0xFF (x.toNat : Int) = alu .not (x.toNat : Int) z) ∧
    (∀ z z' : Int, (alu .not ((alu .not (x.toNat : Int) z).y.toNat : Int) z').y = x) ∧
    (alu .and (x.toNat : Int) (x.toNat : Int)).y = x ∧
    (alu .or (x.toNat : Int) (x.toNat : Int)).y = x ∧
    alu .xor (x.toNat : Int) (x.toNat : Int) = { y := 0#8, flags := { z := true, n := false, c := false, v := false } }

/-- Negation by two routes (41_arithmetic.md section 3): NOT, then ADD of the last result and 1, against SUB from 0. The
results are equal and the carries opposite, for every operand and from every state. -/
def Obligations.NegationByTwoRoutesAgrees : Prop :=
  ∀ (x : Int) (s : State) (rest : List Action),
    ∃ t u,
      let complement : Action := .request (Request.notOf (.value x))
      let addOne : Action := .request { op := 0, a := .lastResult, b := .value 1 }
      let fromZero : Action := .request (Request.plain 1 0 x)
      core.run 2 { s with pending := complement :: addOne :: rest } = .next t ∧
      core.run 1 { s with pending := fromZero :: rest } = .next u ∧
      t.pending = rest ∧ u.pending = rest ∧
      t.lr = u.lr ∧ t.lf.c = !u.lf.c

/-- Wider addition with the carry propagated by the host (41_arithmetic.md section 3): three ADDs of bytes, the third of
the carry of the first, give the 16-bit sum and its carry out. -/
def Obligations.HostPropagatedCarryAddsSixteenBits : Prop :=
  ∀ (xh xl yh yl : Byte),
    let lo := alu .add (xl.toNat : Int) (yl.toNat : Int)
    let hi := alu .add (xh.toNat : Int) (yh.toNat : Int)
    let hi' := alu .add (hi.y.toNat : Int) (lo.flags.c.toNat : Int)
    65536 * (hi.flags.c || hi'.flags.c).toNat + 256 * hi'.y.toNat + lo.y.toNat =
      (256 * xh.toNat + xl.toNat) + (256 * yh.toNat + yl.toNat)

/-! ## Reset and the snapshot -/

/-- R102: the reset state, and reset at any time, from any state, by the host's action or by the `rst` wire, whatever else
is on the inputs. -/
def Obligations.ResetGivesTheResetSnapshot : Prop :=
  (State.reset.lr = 0x00#8 ∧ State.reset.lf.z = false ∧ State.reset.lf.n = false ∧
    State.reset.lf.c = false ∧ State.reset.lf.v = false) ∧
  (∀ (s : State) (rest : List Action), ∃ t,
    step { s with pending := .reset :: rest } = .next t ∧
    t.lr = 0x00#8 ∧ t.lf = { z := false, n := false, c := false, v := false } ∧ t.pending = rest) ∧
  (∀ (s : State) (i : PortIn) (rest : List Action), i.rst = true → ∃ t,
    step { s with pending := .cycle i :: rest } = .next t ∧
    t.lr = 0x00#8 ∧ t.lf = { z := false, n := false, c := false, v := false } ∧ t.pending = rest)

/-- The reset snapshot is the outcome of no completed request (10_state.md section 5): no instruction leaves it, in any
state. -/
def Obligations.ResetSnapshotIsNoResponse : Prop :=
  ∀ (i : Instr) (s : State), ∃ t, exec i s = .next t ∧ t.snapshot ≠ State.reset.snapshot ∧
    ¬ (t.lr = 0x00#8 ∧ t.lf.z = false)

/-- The snapshot invariant (10_state.md section 4) at reset. -/
def Obligations.SnapshotMatchesRecordAtReset : Prop := State.reset.SnapshotInv

/-- The snapshot invariant (10_state.md section 4): what the host's record says of the latest completed request, reset or
clock edge is what the snapshot holds, unless a request has failed since. Every step keeps it, in every state. The record
is the model's own field (log entry 2). -/
def Obligations.StepKeepsSnapshotInvariant : Prop :=
  ∀ s t : State, s.SnapshotInv → step s = .next t → t.SnapshotInv

/-- What the snapshot invariant entails (10_state.md section 4): the reset state satisfies it and every step keeps, in
every state, that Z and N report the snapshot's result unless it is the reset snapshot or the run is marked faulted (the
mark is the model's, log entries 4 and 12). -/
def Obligations.StepKeepsZeroAndNegativeReport : Prop :=
  State.reset.ZNInv ∧ ∀ s t : State, s.ZNInv → step s = .next t → t.ZNInv

/-- A response handed out is never changed (40_execute.md section 1): a step takes at most the first action off the host's
list, and only adds to the host's record, one entry for that action (the fields are the model's own, log entries 1, 2). -/
def Obligations.StepExtendsTheRecordByItsAction : Prop :=
  ∀ s t : State, step s = .next t →
    (s.pending = [] ∧ t = s) ∨
    (∃ act rest e, s.pending = act :: rest ∧ t.pending = rest ∧ t.seen = s.seen ++ [e] ∧
      (match act with
        | .request _ => e = .response t.snapshot
        | .read => e = .snapshot s.lr s.lf
        | .reset => e = .reset
        | .cycle i => e = .cycle i (portOutputs i s)))

/-- The fault mark is never cleared by a later step and is set only by a clock edge that samples an invalid opcode
(60_exceptions.md section 4; that it survives reset is log entry 12). -/
def Obligations.FaultMarkIsPermanentAndEarned : Prop :=
  ∀ s t : State, step s = .next t →
    (s.faulted = true → t.faulted = true) ∧
    (s.faulted = false → t.faulted = true →
      ∃ i rest, s.pending = .cycle i :: rest ∧ i.rst = false ∧ i.exec = true ∧ 6 ≤ i.op.toNat)

/-- `LR` and `LF` are written by requests and reset and by nothing else (10_state.md section 2): a step that changes the
snapshot performed a request, a reset, or a clock edge with `exec` or `rst`. -/
def Obligations.OnlyRequestsAndResetWriteTheSnapshot : Prop :=
  ∀ s t : State, step s = .next t → t.snapshot ≠ s.snapshot →
    ∃ act rest, s.pending = act :: rest ∧
      ((∃ r, act = .request r) ∨ act = .reset ∨ (∃ i, act = .cycle i ∧ (i.rst = true ∨ i.exec = true)))

/-- Reading the snapshot gives `LR` and `LF` and has no side effect; with nothing presented the block is idle and keeps its
state; a cycle with `exec = 0` holds the register (10_state.md sections 2 and 6; the idle step is log entry 11). -/
def Obligations.ReadingAndIdlingChangeNothing : Prop :=
  (∀ (s : State) (rest : List Action),
    step { s with pending := .read :: rest } =
      .next { s with pending := rest, seen := s.seen ++ [.snapshot s.lr s.lf] }) ∧
  (∀ s : State, s.pending = [] → step s = .next s) ∧
  (∀ (s : State) (i : PortIn) (rest : List Action), i.rst = false → i.exec = false →
    ∃ t, step { s with pending := .cycle i :: rest } = .next t ∧
      t.snapshot = s.snapshot ∧ t.faulted = s.faulted ∧ t.pending = rest)

/-! ## Runs -/

/-- A state a claim may be about, no fault recorded and a host that keeps its duty, always has a next state, and it is one
again (60_exceptions.md section 1; the mark is log entry 12). -/
def Obligations.ClaimableStatesKeepStepping : Prop :=
  ∀ s : State, s.Claimable → ∃ t, step s = .next t ∧ t.Claimable

/-- A run of `k` actions of a host that keeps its duty ends after exactly `k` steps, with one entry in the record for each
and no fault recorded that was not there (70_reset_and_hazards.md section 5, 60_exceptions.md section 1). The spec speaks of
requests and responses: that reads, resets and clock cycles are steps too, each with one entry in the record, is the model's
choice, log entries 1 and 2; the mark is log entry 4. -/
def Obligations.RunOfDutifulHostEnds : Prop :=
  ∀ s : State, s.hostKeepsDuty = true →
    ∃ t, core.run s.pending.length s = .next t ∧
      t.pending = [] ∧ t.faulted = s.faulted ∧ t.seen.length = s.seen.length + s.pending.length

/-- A run of requests hands the host the list of their responses, each a function of its own request, in the order
presented, none dropped, merged or repeated, and leaves the last of them as the snapshot (20_memory.md section 2,
70_reset_and_hazards.md section 5). The lists that hold the requests and the responses are the model's, log entries 1 and
2. -/
def Obligations.RunOfRequestsCollectsTheirResponses : Prop :=
  ∀ (qs : List (Opcode × Int × Int)) (s : State),
    s.pending = qs.map (fun q => .request (Request.plain (encodeRaw q.1) q.2.1 q.2.2)) →
    ∃ t, core.run qs.length s = .next t ∧
      t.seen = s.seen ++ qs.map (fun q => .response (alu q.1 q.2.1 q.2.2)) ∧
      t.snapshot = (qs.map (fun q => alu q.1 q.2.1 q.2.2)).getLastD s.snapshot ∧
      t.pending = [] ∧ t.faulted = s.faulted ∧ t.draws = s.draws

/-! ## The port level -/

/-- `err` is `op[2] and op[1]`, 1 for 6 and 7 and 0 for every valid opcode, in every state; the fault of the request level
carries the offending opcode and nothing else (60_exceptions.md section 1). -/
def Obligations.ErrLineIsOpcodeSixOrSeven : Prop :=
  (∀ (i : PortIn) (s : State),
    (portOutputs i s).err = (i.op.getLsbD 2 && i.op.getLsbD 1) ∧
    ((portOutputs i s).err = true ↔ i.op.toNat = 6 ∨ i.op.toNat = 7)) ∧
  (∀ (o : Opcode) (i : PortIn) (s : State), i.op = encodePort o → (portOutputs i s).err = false) ∧
  (∀ (r : Request) (s : State) (rest : List Action) (f : Fault),
    step { s with pending := .request r :: rest } = .fault f → f = .invalidOpcode r.op)

/-- While the opcode is valid the combinational outputs are the function of `a`, `b` and `op` alone: not of `exec`, `rst`,
the snapshot or anything else of the state, nor does reset force them (10_state.md section 6, 70_reset_and_hazards.md
section 1); and they are the response of the request. -/
def Obligations.OutputsFollowTheInputsAlone : Prop :=
  (∀ (i j : PortIn) (s t : State), i.a = j.a → i.b = j.b → i.op = j.op → i.op.toNat ≤ 5 →
    (portOutputs i s).alu = (portOutputs j t).alu) ∧
  (∀ (o : Opcode) (i : PortIn) (s u : State), i.op = encodePort o →
    ∃ t, exec (o.instr (i.a.toNat : Int) (i.b.toNat : Int)) u = .next t ∧ (portOutputs i s).alu = t.snapshot)

/-- The registered outputs show the snapshot; while `rst` is asserted they show the snapshot or already the reset values,
by the open RESET_KIND (10_state.md section 6; log entry 6). The statement holds for either kind. -/
def Obligations.RegisteredOutputsShowTheSnapshot : Prop :=
  ∀ (i : PortIn) (s : State),
    (i.rst = false → (portOutputs i s).lr = s.lr ∧ (portOutputs i s).lf = s.lf) ∧
    (i.rst = true →
      ((portOutputs i s).lr = s.lr ∧ (portOutputs i s).lf = s.lf) ∨
      ((portOutputs i s).lr = State.reset.lr ∧ (portOutputs i s).lf = State.reset.lf))

/-- One clock edge with `rst = 0` (10_state.md section 6): a valid request loads all twelve bits from the outputs, `exec = 0`
holds, and an invalid one marks the run faulted and says nothing of the snapshot (the mark and the open snapshot are log
entry 4). Reset wins over a request, a failing one too. -/
def Obligations.ClockEdgeUpdatesTheSnapshot : Prop :=
  ∀ (s : State) (i : PortIn) (rest : List Action), ∃ t,
    step { s with pending := .cycle i :: rest } = .next t ∧ t.pending = rest ∧
    (i.rst = false → i.exec = true → (portOutputs i s).err = false →
      t.snapshot = (portOutputs i s).alu ∧ t.faulted = s.faulted) ∧
    (i.rst = false → i.exec = false → t.snapshot = s.snapshot ∧ t.faulted = s.faulted) ∧
    (i.rst = false → i.exec = true → (portOutputs i s).err = true → t.faulted = true) ∧
    (i.rst = true → t.snapshot = State.reset.snapshot ∧ t.faulted = s.faulted)

/-- The two levels agree (00_scope.md section 4): a request of integers and one clock edge that samples its low eight wires
and its opcode leave the same snapshot and show the same response; and an invalid pattern is a fault at the one level and
`err = 1` with the fault mark at the other. For negative integers the first clause rests on the `mod 256` reading, the
spec's general knowledge G1 (log entry 7); that the port level goes on under the mark is the model's choice (log entry 4). -/
def Obligations.PortAndRequestLevelsAgree : Prop :=
  (∀ (o : Opcode) (a b : Int) (s : State) (rest : List Action),
    let i : PortIn := { a := BitVec.ofInt 8 a, b := BitVec.ofInt 8 b, op := encodePort o, exec := true, rst := false }
    ∃ t u r out,
      step { s with pending := .request (Request.plain (encodeRaw o) a b) :: rest } = .next t ∧
      step { s with pending := .cycle i :: rest } = .next u ∧
      t.snapshot = r ∧ u.snapshot = r ∧ out.alu = r ∧ out.err = false ∧
      t.seen = s.seen ++ [.response r] ∧ u.seen = s.seen ++ [.cycle i out] ∧
      t.pending = u.pending ∧ t.faulted = u.faulted ∧ t.draws = u.draws) ∧
  (∀ (p : BitVec 3) (a b : Byte) (s : State) (rest : List Action),
    let i : PortIn := { a := a, b := b, op := p, exec := true, rst := false }
    let q : Request := Request.plain (p.toNat : Int) (a.toNat : Int) (b.toNat : Int)
    ((∃ f, step { s with pending := .request q :: rest } = .fault f) ↔ (portOutputs i s).err = true) ∧
    ((portOutputs i s).err = true → ∃ u, step { s with pending := .cycle i :: rest } = .next u ∧ u.faulted = true))

/-- The hardware keeps no error state (60_exceptions.md section 5): after a failed request at the port level, whatever it
left in the snapshot, the next valid request answers and writes the snapshot as ever; the model's mark stays. -/
def Obligations.ValidRequestAfterFailedOneIsOrdinary : Prop :=
  ∀ (o : Opcode) (i j : PortIn) (s : State) (rest : List Action),
    i.rst = false → i.exec = true → 6 ≤ i.op.toNat →
    j.rst = false → j.exec = true → j.op = encodePort o →
    ∃ t, core.run 2 { s with pending := .cycle i :: .cycle j :: rest } = .next t ∧
      t.snapshot = alu o (j.a.toNat : Int) (j.b.toNat : Int) ∧
      t.faulted = true ∧ t.pending = rest
end

