-- ==== Sys2Proof/Laws/State.lean ====
section
/-! SUPPORT. One lemma for each field and each named update of the state, so that no proof unfolds a record update. -/

namespace Sys2Proof.Machine

/-! ### complete -/

@[simp] theorem complete_lr (r : Response) (s : State) : (complete r s).lr = r.y := rfl
@[simp] theorem complete_lf (r : Response) (s : State) : (complete r s).lf = r.flags := rfl
@[simp] theorem complete_faulted (r : Response) (s : State) : (complete r s).faulted = s.faulted := rfl
@[simp] theorem complete_pending (r : Response) (s : State) : (complete r s).pending = s.pending := rfl
@[simp] theorem complete_seen (r : Response) (s : State) : (complete r s).seen = s.seen ++ [.response r] := rfl
@[simp] theorem complete_draws (r : Response) (s : State) : (complete r s).draws = s.draws := rfl

/-! ### resetRegisters -/

@[simp] theorem resetRegisters_lr (s : State) : (resetRegisters s).lr = resetSnapshot.y := rfl
@[simp] theorem resetRegisters_lf (s : State) : (resetRegisters s).lf = resetSnapshot.flags := rfl
@[simp] theorem resetRegisters_faulted (s : State) : (resetRegisters s).faulted = s.faulted := rfl
@[simp] theorem resetRegisters_pending (s : State) : (resetRegisters s).pending = s.pending := rfl
@[simp] theorem resetRegisters_seen (s : State) : (resetRegisters s).seen = s.seen := rfl
@[simp] theorem resetRegisters_draws (s : State) : (resetRegisters s).draws = s.draws := rfl

/-! ### hostReset -/

@[simp] theorem hostReset_lr (s : State) : (hostReset s).lr = resetSnapshot.y := rfl
@[simp] theorem hostReset_lf (s : State) : (hostReset s).lf = resetSnapshot.flags := rfl
@[simp] theorem hostReset_faulted (s : State) : (hostReset s).faulted = s.faulted := rfl
@[simp] theorem hostReset_pending (s : State) : (hostReset s).pending = s.pending := rfl
@[simp] theorem hostReset_seen (s : State) : (hostReset s).seen = s.seen ++ [.reset] := rfl
@[simp] theorem hostReset_draws (s : State) : (hostReset s).draws = s.draws := rfl

/-! ### readSnapshot -/

@[simp] theorem readSnapshot_lr (s : State) : (readSnapshot s).lr = s.lr := rfl
@[simp] theorem readSnapshot_lf (s : State) : (readSnapshot s).lf = s.lf := rfl
@[simp] theorem readSnapshot_faulted (s : State) : (readSnapshot s).faulted = s.faulted := rfl
@[simp] theorem readSnapshot_pending (s : State) : (readSnapshot s).pending = s.pending := rfl
@[simp] theorem readSnapshot_seen (s : State) : (readSnapshot s).seen = s.seen ++ [.snapshot s.lr s.lf] := rfl
@[simp] theorem readSnapshot_draws (s : State) : (readSnapshot s).draws = s.draws := rfl

/-! ### portInvalidOpcode -/

@[simp] theorem portInvalidOpcode_lr (s : State) : (portInvalidOpcode s).lr = Config.openLR s.draws := rfl
@[simp] theorem portInvalidOpcode_lf (s : State) : (portInvalidOpcode s).lf = Config.openLF s.draws := rfl
@[simp] theorem portInvalidOpcode_faulted (s : State) : (portInvalidOpcode s).faulted = true := rfl
@[simp] theorem portInvalidOpcode_pending (s : State) : (portInvalidOpcode s).pending = s.pending := rfl
@[simp] theorem portInvalidOpcode_seen (s : State) : (portInvalidOpcode s).seen = s.seen := rfl
@[simp] theorem portInvalidOpcode_draws (s : State) : (portInvalidOpcode s).draws = s.draws := rfl

/-! ### portCycle -/

@[simp] theorem portCycle_lr (i : PortIn) (s : State) : (portCycle i s).lr = (clockEdge i s).lr := rfl
@[simp] theorem portCycle_lf (i : PortIn) (s : State) : (portCycle i s).lf = (clockEdge i s).lf := rfl
@[simp] theorem portCycle_faulted (i : PortIn) (s : State) : (portCycle i s).faulted = (clockEdge i s).faulted := rfl
@[simp] theorem portCycle_pending (i : PortIn) (s : State) : (portCycle i s).pending = (clockEdge i s).pending := rfl
@[simp] theorem portCycle_seen (i : PortIn) (s : State) : (portCycle i s).seen = s.seen ++ [.cycle i (portOutputs i s)] := rfl
@[simp] theorem portCycle_draws (i : PortIn) (s : State) : (portCycle i s).draws = drawsAfter i s := rfl

/-! ### presentWordNext -/

@[simp] theorem presentWordNext_lr (s : State) (w : Nat) : (presentWordNext s w).lr = s.lr := rfl
@[simp] theorem presentWordNext_lf (s : State) (w : Nat) : (presentWordNext s w).lf = s.lf := rfl
@[simp] theorem presentWordNext_faulted (s : State) (w : Nat) : (presentWordNext s w).faulted = s.faulted := rfl
@[simp] theorem presentWordNext_pending (s : State) (w : Nat) : (presentWordNext s w).pending = .request (Request.ofWord w) :: s.pending := rfl
@[simp] theorem presentWordNext_seen (s : State) (w : Nat) : (presentWordNext s w).seen = s.seen := rfl
@[simp] theorem presentWordNext_draws (s : State) (w : Nat) : (presentWordNext s w).draws = s.draws := rfl

/-! ### The snapshot and the host's duty -/

@[simp] theorem snapshot_complete (r : Response) (s : State) : (complete r s).snapshot = r := rfl

@[simp] theorem snapshot_hostReset (s : State) : (hostReset s).snapshot = resetSnapshot := rfl

@[simp] theorem snapshot_readSnapshot (s : State) : (readSnapshot s).snapshot = s.snapshot := rfl

@[simp] theorem snapshotFromRecord_nil : snapshotFromRecord [] = some resetSnapshot := rfl

theorem snapshotFromRecord_append (es : List Event) (e : Event) :
    snapshotFromRecord (es ++ [e]) = snapshotAfter (snapshotFromRecord es) e := by
  simp [snapshotFromRecord]

end Sys2Proof.Machine
end

