-- ==== Sys2Proof/Laws/Operands.lean ====
section
/-! SUPPORT. The laws of operand normalisation and of the host's operand forms. -/

namespace Sys2Proof.Machine

/-- What normalisation gives, as a number: `i mod 256`. -/
@[simp] theorem mask8_toNat (i : Int) : ((mask8 i).toNat : Int) = i % 256 := by
  simp only [mask8, BitVec.toNat_ofNat]
  omega

theorem mask8_eq_iff (i : Int) (v : Byte) : mask8 i = v ↔ i % 256 = (v.toNat : Int) := by
  rw [← mask8_toNat, BitVec.toNat_eq]
  omega

/-- A byte is its own normalisation. -/
@[simp] theorem mask8_of_byte (v : Byte) : mask8 (v.toNat : Int) = v :=
  (mask8_eq_iff _ _).2 (by have := v.isLt; omega)

/-- Normalising twice changes nothing. -/
@[simp] theorem mask8_emod (i : Int) : mask8 (i % 256) = mask8 i := by
  simp [mask8]

/-- Normalisation keeps the low eight wires of the two's-complement form. -/
theorem mask8_eq_ofInt (i : Int) : mask8 i = BitVec.ofInt 8 i := by
  rw [mask8_eq_iff, BitVec.toNat_ofInt]
  omega

@[simp] theorem resolve_value (v : Int) (s : State) : (HostOperand.value v).resolve s = v := rfl

@[simp] theorem resolve_lastResult (s : State) : HostOperand.lastResult.resolve s = (s.lr.toNat : Int) := rfl

end Sys2Proof.Machine
end

