-- ==== Sys2Proof/Laws/Flags.lean ====
section
/-! SUPPORT. Each flag computation as arithmetic on the byte's value. -/

namespace Sys2Proof.Machine

/-- Bit 7 of a byte is set exactly for the values 128..255. -/
theorem getLsbD_seven (x : Byte) : x.getLsbD 7 = decide (128 ≤ x.toNat) := by
  rw [show x.getLsbD 7 = x.msb from rfl, BitVec.msb_eq_decide]

theorem sign_eq (x : Byte) : sign x = decide (128 ≤ x.toNat) := getLsbD_seven x

theorem negativeFlag_eq (y : Byte) : negativeFlag y = decide (128 ≤ y.toNat) := getLsbD_seven y

theorem zeroFlag_eq (y : Byte) : zeroFlag y = decide (y.toNat = 0) := by
  simp [zeroFlag, BitVec.toNat_eq]

/-- `s(v)` in terms of `u(v)` (00_scope.md R7). -/
theorem toInt_eq (x : Byte) : x.toInt = if 128 ≤ x.toNat then (x.toNat : Int) - 256 else (x.toNat : Int) := by
  rw [BitVec.toInt_eq_toNat_cond]
  split <;> split <;> omega

theorem overflowOfAdd_eq (a b y : Byte) :
    overflowOfAdd a b y =
      (decide (128 ≤ a.toNat) == decide (128 ≤ b.toNat) && decide (128 ≤ y.toNat) != decide (128 ≤ a.toNat)) := by
  simp only [overflowOfAdd, sign_eq]

theorem overflowOfSub_eq (a b y : Byte) :
    overflowOfSub a b y =
      (decide (128 ≤ a.toNat) != decide (128 ≤ b.toNat) && decide (128 ≤ y.toNat) != decide (128 ≤ a.toNat)) := by
  simp only [overflowOfSub, sign_eq]

/-- Packing loses nothing. -/
theorem packFlags_injective (f g : Flags) (h : packFlags f = packFlags g) : f = g := by
  obtain ⟨a, b, c, d⟩ := f
  obtain ⟨a', b', c', d'⟩ := g
  revert a b c d a' b' c' d'
  decide

end Sys2Proof.Machine
end

