-- ==== Sys2Proof/Laws/Alu.lean ====
section
/-! SUPPORT. The combinational function, operation by operation: result and flags (40_execute.md R62). -/

namespace Sys2Proof.Machine

/-! ## The response of each operation -/

theorem aluAdd_eq (a b : Int) :
    aluAdd a b =
      let y := mask8 (((mask8 a).toNat : Int) + ((mask8 b).toNat : Int))
      { y := y
        flags := { z := zeroFlag y, n := negativeFlag y
                   c := carryOfSum (((mask8 a).toNat : Int) + ((mask8 b).toNat : Int))
                   v := overflowOfAdd (mask8 a) (mask8 b) y } } := rfl

theorem aluSub_eq (a b : Int) :
    aluSub a b =
      let y := mask8 (((mask8 a).toNat : Int) - ((mask8 b).toNat : Int))
      { y := y
        flags := { z := zeroFlag y, n := negativeFlag y
                   c := borrowOfDifference (((mask8 a).toNat : Int) - ((mask8 b).toNat : Int))
                   v := overflowOfSub (mask8 a) (mask8 b) y } } := rfl

/-- A result whose carry and overflow are clear: the shape of every logical response. -/
def logicalResponse (y : Byte) : Response :=
  { y := y, flags := { z := zeroFlag y, n := negativeFlag y, c := false, v := false } }

theorem aluAnd_eq (a b : Int) : aluAnd a b = logicalResponse (mask8 a &&& mask8 b) := rfl
theorem aluOr_eq (a b : Int) : aluOr a b = logicalResponse (mask8 a ||| mask8 b) := rfl
theorem aluXor_eq (a b : Int) : aluXor a b = logicalResponse (mask8 a ^^^ mask8 b) := rfl
theorem aluNot_eq (a b : Int) : aluNot a b = logicalResponse (~~~(mask8 a)) := rfl

/-! ## As numbers -/

/-- The low byte of the sum of two bytes. -/
theorem mask8_add_toNat (x y : Byte) :
    (mask8 ((x.toNat : Int) + (y.toNat : Int))).toNat = (x.toNat + y.toNat) % 256 := by
  have := mask8_toNat ((x.toNat : Int) + (y.toNat : Int))
  omega

/-- The low byte of the difference of two bytes. -/
theorem mask8_sub_toNat (x y : Byte) :
    (mask8 ((x.toNat : Int) - (y.toNat : Int))).toNat = (x.toNat + 256 - y.toNat) % 256 := by
  have := mask8_toNat ((x.toNat : Int) - (y.toNat : Int))
  have := y.isLt
  omega

/-- The sum byte as a number. -/
theorem aluAdd_y_toNat (a b : Int) :
    ((aluAdd a b).y.toNat : Int) = (((mask8 a).toNat : Int) + ((mask8 b).toNat : Int)) % 256 := by
  rw [aluAdd_eq]; exact mask8_toNat _

/-- The difference byte as a number. -/
theorem aluSub_y_toNat (a b : Int) :
    ((aluSub a b).y.toNat : Int) = (((mask8 a).toNat : Int) - ((mask8 b).toNat : Int)) % 256 := by
  rw [aluSub_eq]; exact mask8_toNat _

/-! ## What holds of every operation -/

/-- Operands count only through their normalised bytes (40_execute.md R55). -/
theorem alu_congr (o : Opcode) {a a' b b' : Int} (ha : mask8 a = mask8 a') (hb : mask8 b = mask8 b') :
    alu o a b = alu o a' b' := by
  cases o <;> simp only [alu, aluAdd, aluSub, aluAnd, aluOr, aluXor, aluNot, ha, hb]

/-- Z and N report the result, for every operation (43_flags.md R77, R78). -/
theorem alu_znReportResult (o : Opcode) (a b : Int) : ZNReportResult (alu o a b) := by
  cases o <;> exact ⟨rfl, rfl⟩

/-- No response is the reset snapshot: a zero result has Z set (10_state.md R23). -/
theorem alu_ne_resetSnapshot (o : Opcode) (a b : Int) : alu o a b ≠ resetSnapshot := by
  intro h
  have hz := (alu_znReportResult o a b).1
  rw [h] at hz
  exact absurd hz (by decide)

end Sys2Proof.Machine
end

