-- ==== Sys2Proof/Laws/Decode.lean ====
section
/-! SUPPORT. The decoder and the encoder. -/

namespace Sys2Proof

@[simp] theorem decodePort_encodePort (o : Opcode) : decodePort (encodePort o) = some o := by
  cases o <;> rfl

theorem encodePort_of_decodePort {op : BitVec 3} {o : Opcode} (h : decodePort op = some o) : encodePort o = op := by
  revert op o
  decide

/-- The two patterns that select nothing. -/
theorem decodePort_eq_none_iff (op : BitVec 3) : decodePort op = none ↔ 6 ≤ op.toNat := by
  revert op
  decide

/-- `err` is exactly "selects nothing". -/
theorem errLine_eq (op : BitVec 3) : Machine.errLine op = (decodePort op).isNone := by
  revert op
  decide

/-- `err` is raised exactly by the patterns 6 and 7. -/
theorem errLine_iff (op : BitVec 3) : Machine.errLine op = true ↔ 6 ≤ op.toNat := by
  rw [errLine_eq, Option.isNone_iff_eq_none, decodePort_eq_none_iff]

@[simp] theorem decodeRaw_encodeRaw (o : Opcode) : decodeRaw (encodeRaw o) = some o := by
  cases o <;> rfl

/-- The raw-integer adapter answers none exactly outside 0..5. -/
theorem decodeRaw_eq_none_iff (op : Int) : decodeRaw op = none ↔ ¬ (0 ≤ op ∧ op ≤ 5) := by
  unfold decodeRaw
  split
  · rename_i h
    rw [decodePort_eq_none_iff, BitVec.toNat_ofNat]
    omega
  · simp [*]

theorem encodeRaw_of_decodeRaw {op : Int} {o : Opcode} (h : decodeRaw op = some o) : encodeRaw o = op := by
  unfold decodeRaw at h
  split at h
  · rw [encodeRaw, encodePort_of_decodePort h, BitVec.toNat_ofNat]
    omega
  · cases h

theorem decodeRequest_of_some {op : Int} {o : Opcode} (a b : Int) (h : decodeRaw op = some o) :
    decodeRequest op a b = .ok (o.instr a b) := by
  simp [decodeRequest, h]

theorem decodeRequest_of_invalid {op : Int} (a b : Int) (h : ¬ (0 ≤ op ∧ op ≤ 5)) :
    decodeRequest op a b = .error (.invalidOpcode op) := by
  simp [decodeRequest, (decodeRaw_eq_none_iff op).2 h]

/-- A valid opcode decodes, whatever the operands. -/
theorem decodeRaw_of_valid {op : Int} (h : 0 ≤ op ∧ op ≤ 5) : ∃ o, decodeRaw op = some o := by
  cases hd : decodeRaw op with
  | some o => exact ⟨o, rfl⟩
  | none => exact absurd h ((decodeRaw_eq_none_iff op).1 hd)

/-! ## The parts of an instruction -/

@[simp] theorem opcode_instr (o : Opcode) (a b : Int) : (o.instr a b).opcode = o := by cases o <;> rfl
@[simp] theorem fstOperand_instr (o : Opcode) (a b : Int) : (o.instr a b).fstOperand = a := by cases o <;> rfl
@[simp] theorem sndOperand_instr (o : Opcode) (a b : Int) : (o.instr a b).sndOperand = b := by cases o <;> rfl
@[simp] theorem instr_opcode (i : Instr) : i.opcode.instr i.fstOperand i.sndOperand = i := by cases i <;> rfl

theorem wf_iff (i : Instr) :
    i.wf = true ↔ (0 ≤ i.fstOperand ∧ i.fstOperand ≤ 255) ∧ (0 ≤ i.sndOperand ∧ i.sndOperand ≤ 255) := by
  simp [Instr.wf, operandFits]

/-! ## The fields of a word -/

/-- Two fields side by side, as a number. -/
theorem toNat_append_eq {n m : Nat} (x : BitVec n) (y : BitVec m) : (x ++ y).toNat = x.toNat * 2 ^ m + y.toNat := by
  rw [BitVec.toNat_append, Nat.shiftLeft_eq, Nat.mul_comm, ← Nat.two_pow_add_eq_or_of_lt y.isLt]

/-- The packed word is `op * 65536 + a * 256 + b` (30_encoding.md R42). -/
theorem packed_toNat (p : BitVec 3) (a b : BitVec 8) :
    (p ++ a ++ b).toNat = p.toNat * 65536 + a.toNat * 256 + b.toNat := by
  rw [toNat_append_eq, toNat_append_eq]
  omega

/-- Bits `lo` up of a word, as a number. -/
theorem extract_toNat {n : Nat} (w : BitVec n) (lo len : Nat) :
    (w.extractLsb' lo len).toNat = w.toNat / 2 ^ lo % 2 ^ len := by
  rw [BitVec.extractLsb'_toNat, Nat.shiftRight_eq_div_pow]

/-- A request word's three fields, sliced back out of their concatenation. -/
theorem extract_op (p : BitVec 3) (a b : BitVec 8) : (p ++ a ++ b).extractLsb' 16 3 = p := by
  apply BitVec.eq_of_toNat_eq
  rw [extract_toNat, packed_toNat]
  omega

theorem extract_a (p : BitVec 3) (a b : BitVec 8) : (p ++ a ++ b).extractLsb' 8 8 = a := by
  apply BitVec.eq_of_toNat_eq
  rw [extract_toNat, packed_toNat]
  omega

theorem extract_b (p : BitVec 3) (a b : BitVec 8) : (p ++ a ++ b).extractLsb' 0 8 = b := by
  apply BitVec.eq_of_toNat_eq
  rw [extract_toNat, packed_toNat]
  omega

/-- A word is its three fields side by side (30_encoding.md R42). -/
theorem fields_append (w : BitVec 19) :
    (w.extractLsb' 16 3 ++ w.extractLsb' 8 8 ++ w.extractLsb' 0 8 : BitVec (3 + 8 + 8)) = w := by
  apply BitVec.eq_of_toNat_eq
  rw [packed_toNat, extract_toNat, extract_toNat, extract_toNat]
  omega

/-- The byte of an operand in 0..255 is the operand. -/
theorem encodeOperand_toNat {x : Int} (h0 : 0 ≤ x) (h1 : x ≤ 255) : ((encodeOperand x).toNat : Int) = x := by
  rw [encodeOperand, BitVec.toNat_ofInt]
  omega

/-- A byte is its own operand field. -/
@[simp] theorem encodeOperand_of_byte (v : Byte) : encodeOperand (v.toNat : Int) = v := by
  apply BitVec.eq_of_toNat_eq
  have := v.isLt
  have := encodeOperand_toNat (x := (v.toNat : Int)) (by omega) (by omega)
  omega

/-- The word of an operation on two bytes. -/
theorem encode_of_bytes (o : Opcode) (a b : Byte) :
    encode (o.instr (a.toNat : Int) (b.toNat : Int)) = encodePort o ++ a ++ b := by
  simp only [encode, opcode_instr, fstOperand_instr, sndOperand_instr, encodeOperand_of_byte]

end Sys2Proof
end

