-- ==== Sys2Proof/Laws/PerInstr.lean ====
section
/-! SUPPORT. The statements made for every instruction, one lemma for each constructor. -/

namespace Sys2Proof.Laws.EncodedFields

/-- The word of a well-formed instruction carries its opcode's number and both operands in the fields of REQ19
(30_encoding.md R42). -/
def Statement (i : Instr) : Prop :=
  i.wf = true →
    (encode i).extractLsb' 16 3 = encodePort i.opcode ∧
    (((encode i).extractLsb' 8 8).toNat : Int) = i.fstOperand ∧
    (((encode i).extractLsb' 0 8).toNat : Int) = i.sndOperand

/-- Any instruction's word, whatever its constructor. -/
theorem of_instr (i : Instr) : Statement i := by
  intro h
  obtain ⟨⟨ha, ha'⟩, hb, hb'⟩ := (wf_iff i).1 h
  refine ⟨extract_op .., ?_, ?_⟩
  · rw [encode, extract_a, encodeOperand_toNat ha ha']
  · rw [encode, extract_b, encodeOperand_toNat hb hb']

theorem add (a b : Int) : Statement (.add a b) := of_instr _
theorem sub (a b : Int) : Statement (.sub a b) := of_instr _
theorem and (a b : Int) : Statement (.and a b) := of_instr _
theorem or (a b : Int) : Statement (.or a b) := of_instr _
theorem xor (a b : Int) : Statement (.xor a b) := of_instr _
theorem not (a b : Int) : Statement (.not a b) := of_instr _

end Sys2Proof.Laws.EncodedFields
end

