-- ==== Sys2Proof/Laws/Step.lean ====
section
/-! SUPPORT. What `exec`, an action and a step can do, said once. -/

namespace Sys2Proof.Machine

/-- Every instruction completes, with the response of the combinational function (40_execute.md R62). -/
theorem exec_eq (i : Instr) (s : State) :
    exec i s = .next (complete (alu i.opcode i.fstOperand i.sndOperand) s) := by
  cases i <;> rfl

theorem presentRequest_of_some {r : Request} {o : Opcode} (s : State) (h : decodeRaw r.op = some o) :
    presentRequest r s = .next (complete (alu o (r.a.resolve s) (r.b.resolve s)) s) := by
  simp [presentRequest, Request.decoded, decodeRequest_of_some _ _ h, exec_eq]

theorem presentRequest_of_invalid {r : Request} (s : State) (h : ¬ (0 ≤ r.op ∧ r.op ≤ 5)) :
    presentRequest r s = .fault (.invalidOpcode r.op) := by
  simp [presentRequest, Request.decoded, decodeRequest_of_invalid _ _ h, raiseDecodeError, raiseInvalidOpcode]

/-- The step on a nonempty list of actions. -/
theorem step_cons (s : State) (act : Action) (rest : List Action) :
    step { s with pending := act :: rest } = performAction act { s with pending := rest } := rfl

theorem step_of_pending {s : State} {act : Action} {rest : List Action} (h : s.pending = act :: rest) :
    step s = performAction act { s with pending := rest } := by
  simp [step, h]

theorem step_of_idle {s : State} (h : s.pending = []) : step s = .next s := by
  simp [step, h]

/-- What an action that does not fail can do. -/
theorem performAction_cases {act : Action} {s t : State} (h : performAction act s = .next t) :
    (∃ r o, act = .request r ∧ decodeRaw r.op = some o ∧
      t = complete (alu o (r.a.resolve s) (r.b.resolve s)) s) ∨
    (act = .read ∧ t = readSnapshot s) ∨
    (act = .reset ∧ t = hostReset s) ∨
    (∃ i, act = .cycle i ∧ t = portCycle i s) := by
  cases act with
  | request r =>
    left
    by_cases hv : 0 ≤ r.op ∧ r.op ≤ 5
    · obtain ⟨o, ho⟩ := decodeRaw_of_valid hv
      rw [performAction, presentRequest_of_some s ho] at h
      exact ⟨r, o, rfl, ho, by cases h; rfl⟩
    · rw [performAction, presentRequest_of_invalid s hv] at h
      cases h
  | read => cases h; exact .inr (.inl ⟨rfl, rfl⟩)
  | reset => cases h; exact .inr (.inr (.inl ⟨rfl, rfl⟩))
  | cycle i => cases h; exact .inr (.inr (.inr ⟨i, rfl, rfl⟩))

/-- What a step that does not fail can do: nothing, or the host's first action. -/
theorem step_cases {s t : State} (h : step s = .next t) :
    (s.pending = [] ∧ t = s) ∨
    (∃ act rest, s.pending = act :: rest ∧ performAction act { s with pending := rest } = .next t) := by
  cases hp : s.pending with
  | nil => rw [step_of_idle hp] at h; cases h; exact .inl ⟨rfl, rfl⟩
  | cons act rest => rw [step_of_pending hp] at h; exact .inr ⟨act, rest, rfl, h⟩

/-- The combinational outputs of a valid opcode. -/
theorem combinational_of_some {i : PortIn} {o : Opcode} (draw : Nat) (h : decodePort i.op = some o) :
    combinational i draw = alu o (i.a.toNat : Int) (i.b.toNat : Int) := by
  simp [combinational, h]

@[simp] theorem portOutputs_alu (i : PortIn) (s : State) : (portOutputs i s).alu = combinational i s.draws := rfl

@[simp] theorem portOutputs_err (i : PortIn) (s : State) : (portOutputs i s).err = errLine i.op := rfl

/-- What one clock edge can do to the state (10_state.md R25, R26). -/
theorem clockEdge_cases (i : PortIn) (s : State) :
    (i.rst = true ∧ clockEdge i s = resetRegisters s) ∨
    (i.rst = false ∧ i.exec = true ∧ errLine i.op = true ∧ clockEdge i s = portInvalidOpcode s) ∨
    (∃ o, i.rst = false ∧ i.exec = true ∧ errLine i.op = false ∧ decodePort i.op = some o ∧
      clockEdge i s = { s with lr := (alu o (i.a.toNat : Int) (i.b.toNat : Int)).y
                               lf := (alu o (i.a.toNat : Int) (i.b.toNat : Int)).flags }) ∨
    (i.rst = false ∧ i.exec = false ∧ clockEdge i s = s) := by
  cases hr : i.rst with
  | true => exact .inl ⟨rfl, by simp [clockEdge, hr]⟩
  | false =>
    cases he : i.exec with
    | false => exact .inr (.inr (.inr ⟨rfl, rfl, by simp [clockEdge, hr, he]⟩))
    | true =>
      cases ho : decodePort i.op with
      | none =>
        have herr : errLine i.op = true := by simp [errLine_eq, ho]
        exact .inr (.inl ⟨rfl, rfl, herr, by simp [clockEdge, hr, he, herr]⟩)
      | some o =>
        have herr : errLine i.op = false := by simp [errLine_eq, ho]
        exact .inr (.inr (.inl ⟨o, rfl, rfl, herr, rfl, by simp [clockEdge, hr, he, herr, combinational, ho]⟩))

/-- The edge touches neither the host's lists nor the counter. -/
@[simp] theorem clockEdge_pending (i : PortIn) (s : State) : (clockEdge i s).pending = s.pending := by
  obtain ⟨_, h⟩ | ⟨_, _, _, h⟩ | ⟨_, _, _, _, _, h⟩ | ⟨_, _, h⟩ := clockEdge_cases i s <;> simp [h]

@[simp] theorem clockEdge_seen (i : PortIn) (s : State) : (clockEdge i s).seen = s.seen := by
  obtain ⟨_, h⟩ | ⟨_, _, _, h⟩ | ⟨_, _, _, _, _, h⟩ | ⟨_, _, h⟩ := clockEdge_cases i s <;> simp [h]

@[simp] theorem clockEdge_draws (i : PortIn) (s : State) : (clockEdge i s).draws = s.draws := by
  obtain ⟨_, h⟩ | ⟨_, _, _, h⟩ | ⟨_, _, _, _, _, h⟩ | ⟨_, _, h⟩ := clockEdge_cases i s <;> simp [h]

/-! ## Runs -/

theorem run_succ_of_next {k : Nat} {s t : State} (h : step s = .next t) :
    core.run (k + 1) s = core.run k t := by
  have hs : core.step s = .next t := h
  simp only [Host.Core.run, hs]

end Sys2Proof.Machine
end

