-- ==== Sys2Proof/Tests/Slice0.lean ====
section
/-! SUPPORT. Tests. Expected values are those of spec/95_test_vectors.md (section named at each group), never the model's
own answers; the witnesses show that the hypotheses of the statements can be met. -/

open Sys2Proof Sys2Proof.Machine

namespace Sys2Proof.Tests

/-! ## Well-formedness refuses -/

theorem test_wf_fst_too_large : (Instr.add 256 0).wf = false := by decide
theorem test_wf_fst_negative : (Instr.sub (-1) 0).wf = false := by decide
theorem test_wf_snd_too_large : (Instr.not 0 256).wf = false := by decide
theorem test_wf_snd_negative : (Instr.xor 0 (-1)).wf = false := by decide
theorem test_wf_corners : (Instr.or 0 255).wf = true ∧ (Instr.and 255 0).wf = true := by decide

/-! ## Decoding: words written from the bit layout of 30_encoding.md R42, operands from section 3 -/

theorem test_decode_add : decodeReq19 0b000_11001000_01100100#19 = .ok (.add 200 100) := by rfl
theorem test_decode_sub : decodeReq19 0b001_00000101_00001010#19 = .ok (.sub 5 10) := by rfl
theorem test_decode_and : decodeReq19 0b010_10101100_11110000#19 = .ok (.and 172 240) := by rfl
theorem test_decode_or : decodeReq19 0b011_00000001_00000010#19 = .ok (.or 1 2) := by rfl
theorem test_decode_xor : decodeReq19 0b100_00001111_00000101#19 = .ok (.xor 15 5) := by rfl
theorem test_decode_not : decodeReq19 0b101_00000001_11111111#19 = .ok (.not 1 255) := by rfl
theorem test_decode_illegal_six : decodeReq19 0b110_00000001_00000010#19 = .error (.invalidOpcode 6) := by rfl
theorem test_decode_illegal_seven : decodeReq19 0b111_00010010_00110100#19 = .error (.invalidOpcode 7) := by rfl
theorem test_table_word : decodeTableWord 24 0x1C864 = some (.sub 200 100) := by decide
theorem test_table_word_illegal : decodeTableWord 24 0x61234 = none := by decide
theorem test_raw_eight_is_not_add : decodeRaw 8 = none ∧ decodeRaw 13 = none ∧ decodeRaw (-1) = none := by decide
theorem test_encode_example : encode (.add 200 100) = 0x0C864#19 := by decide

/-! ## One step on a small state: the snapshot after, from section 3's tables -/

/-- A state with every model field away from its reset value. -/
def dirty : State :=
  { lr := 0x5A#8, lf := { z := true, n := true, c := true, v := true }, faulted := true, pending := [.read], seen := [.reset], draws := 3 }

/-- The snapshot after the table word `w`, as a byte and the ZNCV numeral. -/
def after (w : Nat) : Option (Byte × BitVec 4) :=
  match step (dirty.withFetchWord 24 w) with
  | .next t => some (t.lr, packFlags t.lf)
  | _ => none

theorem test_add_carry : after 0x0C864 = some (0x2C#8, 0b0010#4) := by decide
theorem test_add_zero_carry_overflow : after 0x08080 = some (0x00#8, 0b1011#4) := by decide
theorem test_sub_borrow_overflow : after 0x10080 = some (0x80#8, 0b0111#4) := by decide
theorem test_sub_order_of_operands : after 0x1C837 = some (0x91#8, 0b0100#4) := by decide
theorem test_and_general : after 0x2ACF0 = some (0xA0#8, 0b0100#4) := by decide
theorem test_and_zero : after 0x255AA = some (0x00#8, 0b1000#4) := by decide
theorem test_or_general : after 0x3ACF0 = some (0xFC#8, 0b0100#4) := by decide
theorem test_or_no_flag : after 0x30102 = some (0x03#8, 0b0000#4) := by decide
theorem test_xor_general : after 0x4ACF0 = some (0x5C#8, 0b0000#4) := by decide
theorem test_xor_equal : after 0x48080 = some (0x00#8, 0b1000#4) := by decide
theorem test_not_ignores_b : after 0x501FF = some (0xFE#8, 0b0100#4) := by decide
theorem test_not_zero : after 0x5FF00 = some (0x00#8, 0b1000#4) := by decide
theorem test_word_runs_first_after_reset :
    step (State.reset.withFetchWord 24 0x0FF01) = exec (.add 255 1) State.reset := by rfl

/-- Section 3.7: masked operands, a negative one among them; the carry is that of the masked operands. -/
theorem test_masking_wide : aluAdd 456 356 = aluAdd 200 100 ∧ (aluAdd 256 0).flags.c = false := by decide
theorem test_masking_negative : aluSub (-251) (-246) = aluSub 5 10 ∧ (aluSub 0 (-1)).y = 0x01#8 := by decide

/-- Section 3.8: an invalid opcode is a fault with its value. -/
theorem test_invalid_opcode :
    step (dirty.withFetchWord 24 0x61234) = .fault (.invalidOpcode 6) := by rfl

/-- Program P2's second step: the token `LR`. -/
theorem test_last_result_token :
    step { State.reset with lr := 0xFA#8, pending := [.request { op := 0, a := .lastResult, b := .value 1 }] } =
      exec (.add 0xFA 1) { State.reset with lr := 0xFA#8 } := by rfl

/-- Program P6's step 4: reset together with `XOR 0xFF, 0x0F` shows `0xF0`, `0100` and executes nothing. -/
theorem test_reset_wins :
    (combinational { a := 0xFF#8, b := 0x0F#8, op := 0b100#3, exec := true, rst := true } 0).y = 0xF0#8 ∧
    (clockEdge { a := 0xFF#8, b := 0x0F#8, op := 0b100#3, exec := true, rst := true } dirty).lr = 0x00#8 := by decide

/-! ## Witnesses: the hypotheses of the statements can be met -/

/-- A failing cycle, a valid one, an idle one, a reset one. -/
def failing : PortIn := { a := 1#8, b := 2#8, op := 0b110#3, exec := true, rst := false }
def failing7 : PortIn := { a := 1#8, b := 2#8, op := 0b111#3, exec := true, rst := false }
def valid : PortIn := { a := 255#8, b := 1#8, op := 0b000#3, exec := true, rst := false }
def valid5 : PortIn := { a := 255#8, b := 1#8, op := 0b101#3, exec := true, rst := false }
def resting : PortIn := { a := 0#8, b := 0#8, op := 0b111#3, exec := false, rst := false }
def resetting : PortIn := { a := 0#8, b := 0#8, op := 0b111#3, exec := true, rst := true }

/-- A state away from reset whose record agrees with its snapshot. -/
def agreeing (acts : List Action) : State :=
  { lr := 0x0C#8, lf := { z := false, n := false, c := false, v := false }, faulted := false, pending := acts
    seen := [.response { y := 0x0C#8, flags := { z := false, n := false, c := false, v := false } }], draws := 0 }

theorem witness_OpPortSelectsTheSixOperations : decodePort 0b110#3 = none ∧ decodePort 0b111#3 = none := by decide

theorem witness_DecodeUndoesEncode : (Instr.sub 0 255).wf = true ∧ (Instr.not 255 0).wf = true := by decide

theorem witness_EncodeUndoesDecode : decodeReq19 0b101_11111111_00000000#19 = .ok (.not 255 0) := by rfl

theorem witness_RequestWordPacksTheFields : (Instr.not 255 255).wf = true ∧ (Instr.add 0 0).wf = true := by decide

theorem witness_RawOpcodeIsNeverReduced :
    (¬ (0 ≤ (-1 : Int) ∧ (-1 : Int) ≤ 5)) ∧ (¬ (0 ≤ (6 : Int) ∧ (6 : Int) ≤ 5)) ∧
    (0 ≤ (0 : Int) ∧ (0 : Int) ≤ 5) ∧ (0 ≤ (5 : Int) ∧ (5 : Int) ≤ 5) := by decide

theorem witness_StepRunsDecodedInstruction :
    (Request.plain 5 255 0).decoded dirty = .ok (.not 255 0) ∧
    decodeTableWord 24 0x50000 = some (.not 0 0) ∧ decodeTableWord 24 0x5FFFF = some (.not 255 255) ∧
    decodeTableWord 24 0x60000 = none ∧ decodeTableWord 24 0x80000 = none := ⟨rfl, by decide⟩

theorem witness_OnlyInvalidOpcodeFails :
    step { dirty with pending := [.request (Request.plain 6 0 0)] } = .fault (.invalidOpcode 6) ∧
    step { dirty with pending := [.request (Request.plain (-1) 0 0)] } = .fault (.invalidOpcode (-1)) := ⟨rfl, rfl⟩

theorem witness_ResponseIsFunctionOfRequestAlone :
    ((0 : Int) ≤ 0 ∧ (0 : Int) ≤ 5) ∧ ((0 : Int) ≤ 5 ∧ (5 : Int) ≤ 5) := by decide

/-- For the six result statements: the normalised bytes of operands inside and outside 0..255. -/
theorem witness_operation_results : 0xC8#8 = mask8 200 ∧ 0x00#8 = mask8 256 ∧ 0xFF#8 = mask8 (-1) := by decide

theorem witness_LogicalOperationsClearCarryAndOverflow :
    (Instr.and 1 2).opcode = .and ∧ (Instr.or 1 2).opcode = .or ∧
    (Instr.xor 1 2).opcode = .xor ∧ (Instr.not 1 2).opcode = .not := by decide

theorem witness_ArithmeticFlagsReportOverflowAndOrder :
    (∃ t, exec (.add ((127#8 : Byte).toNat : Int) ((1#8 : Byte).toNat : Int)) dirty = .next t) ∧
    (∃ t, exec (.sub ((128#8 : Byte).toNat : Int) ((1#8 : Byte).toNat : Int)) dirty = .next t) := ⟨⟨_, rfl⟩, ⟨_, rfl⟩⟩

theorem witness_ResetGivesTheResetSnapshot : resetting.rst = true := by decide

theorem witness_StepKeepsSnapshotInvariant :
    (agreeing [.cycle valid]).SnapshotInv ∧ ∃ t, step (agreeing [.cycle valid]) = .next t := by
  refine ⟨fun r h => ?_, _, rfl⟩
  cases h
  rfl

theorem witness_StepKeepsZeroAndNegativeReport :
    (agreeing [.cycle failing]).ZNInv ∧ dirty.ZNInv ∧ (∃ t, step (agreeing [.cycle failing]) = .next t) ∧
    (∃ t, step dirty = .next t) :=
  ⟨.inr (.inr ⟨by decide, by decide⟩), .inl rfl, ⟨_, rfl⟩, ⟨_, rfl⟩⟩

theorem witness_ClaimableStatesKeepStepping :
    (agreeing [.request (Request.plain 5 0 0), .cycle resting]).Claimable ∧ (agreeing []).Claimable :=
  ⟨⟨rfl, by decide⟩, ⟨rfl, by decide⟩⟩

theorem witness_StepExtendsTheRecordByItsAction :
    (∃ t, step (agreeing []) = .next t) ∧ (∃ t, step (agreeing [.read]) = .next t) := ⟨⟨_, rfl⟩, ⟨_, rfl⟩⟩

theorem witness_FaultMarkIsPermanentAndEarned :
    (∃ t, step { dirty with pending := [.reset] } = .next t ∧ dirty.faulted = true) ∧
    (∃ t, step (agreeing [.cycle failing]) = .next t ∧ (agreeing []).faulted = false ∧ t.faulted = true) ∧
    (∃ t, step (agreeing [.cycle failing7]) = .next t ∧ t.faulted = true) :=
  ⟨⟨_, rfl, rfl⟩, ⟨_, rfl, rfl, rfl⟩, ⟨_, rfl, rfl⟩⟩

theorem witness_OnlyRequestsAndResetWriteTheSnapshot :
    ∃ t, step (agreeing [.reset]) = .next t ∧ t.snapshot ≠ (agreeing [.reset]).snapshot :=
  ⟨_, rfl, by decide⟩

theorem witness_ReadingAndIdlingChangeNothing :
    (agreeing []).pending = [] ∧ resting.rst = false ∧ resting.exec = false := by decide

theorem witness_RunOfDutifulHostEnds :
    (agreeing [.request (Request.plain 0 255 1), .read, .cycle valid5, .cycle resting, .cycle resetting,
      .reset, .request (Request.plain 5 0 0)]).hostKeepsDuty = true := by decide

theorem witness_RunOfRequestsCollectsTheirResponses :
    (agreeing [.request (Request.plain 0 255 1), .request (Request.plain 5 0 7)]).pending =
      [(Opcode.add, (255 : Int), (1 : Int)), (Opcode.not, 0, 7)].map
        (fun q => Action.request (Request.plain (encodeRaw q.1) q.2.1 q.2.2)) := by rfl

theorem witness_ErrLineIsOpcodeSixOrSeven :
    valid.op = encodePort .add ∧ valid5.op = encodePort .not ∧
    step { dirty with pending := [.request (Request.plain 7 0 0)] } = .fault (.invalidOpcode 7) := ⟨rfl, rfl, rfl⟩

theorem witness_OutputsFollowTheInputsAlone :
    valid.op.toNat ≤ 5 ∧ valid5.op.toNat ≤ 5 ∧ valid.op = encodePort .add := by decide

theorem witness_RegisteredOutputsShowTheSnapshot : valid.rst = false ∧ resetting.rst = true := by decide

theorem witness_ClockEdgeUpdatesTheSnapshot :
    (valid5.rst = false ∧ valid5.exec = true ∧ (portOutputs valid5 dirty).err = false) ∧
    (resting.rst = false ∧ resting.exec = false) ∧
    (failing.rst = false ∧ failing.exec = true ∧ (portOutputs failing dirty).err = true) ∧
    resetting.rst = true := ⟨⟨rfl, rfl, rfl⟩, ⟨rfl, rfl⟩, ⟨rfl, rfl, rfl⟩, rfl⟩

theorem witness_PortAndRequestLevelsAgree :
    (portOutputs failing dirty).err = true ∧ (portOutputs failing7 dirty).err = true ∧
    (portOutputs valid5 dirty).err = false := ⟨rfl, rfl, rfl⟩

theorem witness_ValidRequestAfterFailedOneIsOrdinary :
    failing.rst = false ∧ failing.exec = true ∧ 6 ≤ failing.op.toNat ∧
    valid.rst = false ∧ valid.exec = true ∧ valid.op = encodePort .add := by decide

end Sys2Proof.Tests
end

section
/-! PROOF. Scope (00_scope.md R11): the response of a valid request is a function of the request alone. -/

namespace Sys2Proof.Machine

/-- A request with plain operands reads nothing of the state: its response is `alu` of its own opcode and operands
(00_scope.md R11, 40_execute.md R62), and completing with it is all the step does besides taking the request off the
host's list. -/
theorem step_plainRequest_of_some {op : Int} {o : Opcode} (a b : Int) (s : State) (rest : List Action)
    (h : decodeRaw op = some o) :
    step { s with pending := .request (Request.plain op a b) :: rest } =
      .next (complete (alu o a b) { s with pending := rest }) := by
  rw [step_cons]
  exact presentRequest_of_some (r := Request.plain op a b) _ h

/-- Settles O11: the one response is `alu` of the decoded operation and the request's operands, which mentions no
state. -/
theorem responseIsFunctionOfRequestAlone : Obligations.ResponseIsFunctionOfRequestAlone := by
  intro op a b hlo hhi
  obtain ⟨o, ho⟩ := decodeRaw_of_valid ⟨hlo, hhi⟩
  exact ⟨alu o a b, fun s rest => step_plainRequest_of_some a b s rest ho⟩

end Sys2Proof.Machine
end

section
/-! PROOF. Encoding (30_encoding.md): what the decoder reads from a request word, field by field, and what a step does
with a request's opcode. -/

namespace Sys2Proof

/-! ## The port and the raw-integer adapter -/

/-- A port pattern read as a number passes the adapter of R46 as itself: 6 and 7 are outside 0..5, where the port selects
nothing either. -/
@[simp] theorem decodeRaw_toNat (op : BitVec 3) : decodeRaw (op.toNat : Int) = decodePort op := by
  revert op
  decide

/-- On 0..5 the adapter drives the port's three wires with the integer (30_encoding.md R46). -/
theorem decodeRaw_eq_decodePort_ofInt {op : Int} (h : 0 ≤ op ∧ op ≤ 5) :
    decodeRaw op = decodePort (BitVec.ofInt 3 op) := by
  have hport : ((BitVec.ofInt 3 op).toNat : Int) = op := by
    rw [BitVec.toNat_ofInt]
    omega
  rw [← decodeRaw_toNat, hport]

/-- The pattern of an operation is the one pattern that selects it. -/
theorem decodePort_eq_some_iff (op : BitVec 3) (o : Opcode) : decodePort op = some o ↔ op = encodePort o :=
  ⟨fun h => (encodePort_of_decodePort h).symm, fun h => by rw [h, decodePort_encodePort]⟩

/-! ## Decoding a REQ19 word -/

/-- Slicing a word is making a request of its three fields (30_encoding.md R42). -/
theorem decodeReq19_eq_decodeRequest (w : BitVec 19) :
    decodeReq19 w = decodeRequest (w.extractLsb' 16 3).toNat (w.extractLsb' 8 8).toNat (w.extractLsb' 0 8).toNat := by
  rw [decodeReq19, decodeRequest, decodeRaw_toNat]

theorem decodeReq19_of_some {w : BitVec 19} {o : Opcode} (h : decodePort (w.extractLsb' 16 3) = some o) :
    decodeReq19 w = .ok (o.instr (w.extractLsb' 8 8).toNat (w.extractLsb' 0 8).toNat) := by
  simp only [decodeReq19, h]

theorem decodeReq19_of_none {w : BitVec 19} (h : decodePort (w.extractLsb' 16 3) = none) :
    decodeReq19 w = .error (.invalidOpcode (w.extractLsb' 16 3).toNat) := by
  simp only [decodeReq19, h]

/-- Every pair of bytes is a legal operand pair of every operation (30_encoding.md R43). -/
theorem decodeReq19_append (o : Opcode) (a b : Byte) :
    decodeReq19 (encodePort o ++ a ++ b) = .ok (o.instr (a.toNat : Int) (b.toNat : Int)) := by
  rw [decodeReq19_of_some (o := o) (by rw [extract_op, decodePort_encodePort]), extract_a, extract_b]

/-- A word decodes to an operation exactly when its opcode field is that operation's pattern. -/
theorem decodeReq19_eq_ok_instr_iff (w : BitVec 19) (o : Opcode) :
    (∃ a b, decodeReq19 w = .ok (o.instr a b)) ↔ w.extractLsb' 16 3 = encodePort o := by
  rw [← decodePort_eq_some_iff]
  constructor
  · rintro ⟨a, b, h⟩
    cases hp : decodePort (w.extractLsb' 16 3) with
    | none =>
      rw [decodeReq19_of_none hp] at h
      cases h
    | some o' =>
      rw [decodeReq19_of_some hp] at h
      have hop := congrArg Instr.opcode (Except.ok.inj h)
      rw [opcode_instr, opcode_instr] at hop
      rw [hop]
  · exact fun h => ⟨_, _, decodeReq19_of_some h⟩

/-- A word is rejected exactly when its opcode field selects nothing. -/
theorem decodeReq19_eq_error_iff (w : BitVec 19) :
    (∃ e, decodeReq19 w = .error e) ↔ decodePort (w.extractLsb' 16 3) = none := by
  constructor
  · rintro ⟨e, h⟩
    cases hp : decodePort (w.extractLsb' 16 3) with
    | none => rfl
    | some o =>
      rw [decodeReq19_of_some hp] at h
      cases h
  · exact fun h => ⟨_, decodeReq19_of_none h⟩

/-- The mask of R43 keeps the opcode field and clears both operand fields. -/
theorem and_opcodeMask (w : BitVec 19) : w &&& 0x70000#19 = (w.extractLsb' 16 3 ++ 0#8 ++ 0#8 : BitVec (3 + 8 + 8)) :=
  calc w &&& 0x70000#19
    _ = (w.extractLsb' 16 3 ++ w.extractLsb' 8 8 ++ w.extractLsb' 0 8 : BitVec (3 + 8 + 8)) &&&
        (BitVec.allOnes 3 ++ 0#8 ++ 0#8) := by rw [fields_append]; rfl
    _ = w.extractLsb' 16 3 ++ 0#8 ++ 0#8 := by
        rw [BitVec.and_append, BitVec.and_append, BitVec.and_allOnes, BitVec.and_zero, BitVec.and_zero]

/-- A word matches an operation's pattern under the mask exactly when it decodes to that operation (30_encoding.md
R43). -/
theorem and_opcodeMask_eq_iff (w : BitVec 19) (o : Opcode) :
    w &&& 0x70000#19 = (encodePort o ++ 0#8 ++ 0#8 : BitVec (3 + 8 + 8)) ↔ ∃ a b, decodeReq19 w = .ok (o.instr a b) := by
  rw [decodeReq19_eq_ok_instr_iff, and_opcodeMask]
  constructor
  · intro h
    rw [← extract_op (w.extractLsb' 16 3) 0#8 0#8, h, extract_op]
  · intro h
    rw [h]

/-- The rejected words are those from `0x60000` up (30_encoding.md R43). -/
theorem le_toNat_iff_decodeReq19_eq_error (w : BitVec 19) : 0x60000 ≤ w.toNat ↔ ∃ e, decodeReq19 w = .error e := by
  rw [decodeReq19_eq_error_iff, decodePort_eq_none_iff, extract_toNat]
  have := w.isLt
  omega

/-- Settles O5: under the mask only the opcode field is left, and that field alone decides what the word decodes to. -/
theorem opcodeFieldAloneSelects : Obligations.OpcodeFieldAloneSelects :=
  ⟨fun w =>
    ⟨and_opcodeMask_eq_iff w .add, and_opcodeMask_eq_iff w .sub, and_opcodeMask_eq_iff w .and,
      and_opcodeMask_eq_iff w .or, and_opcodeMask_eq_iff w .xor, and_opcodeMask_eq_iff w .not,
      le_toNat_iff_decodeReq19_eq_error w⟩,
    decodeReq19_append⟩

/-! ## The word as a number -/

/-- The value of a well-formed instruction's word (30_encoding.md R42). -/
theorem encode_toNat {i : Instr} (h : i.wf = true) :
    ((encode i).toNat : Int) = encodeRaw i.opcode * 65536 + i.fstOperand * 256 + i.sndOperand := by
  obtain ⟨⟨ha, ha'⟩, hb, hb'⟩ := (wf_iff i).1 h
  have hfst := encodeOperand_toNat ha ha'
  have hsnd := encodeOperand_toNat hb hb'
  rw [encode, packed_toNat, encodeRaw]
  omega

/-- Dividing a 19-bit number reads the fields that slicing its bits reads. -/
theorem decodeWord_toNat (w : BitVec 19) : decodeWord w.toNat = decodeReq19 w := by
  have hop : w.toNat / 2 ^ 16 % 2 ^ 3 = w.toNat / 65536 := by
    have := w.isLt
    omega
  rw [decodeReq19_eq_decodeRequest, extract_toNat, extract_toNat, extract_toNat, hop, Nat.pow_zero, Nat.div_one]
  rfl

/-- Settles O6: the word's value is that of its three fields side by side, and its two readings meet in
`decodeRequest`. -/
theorem requestWordPacksTheFields : Obligations.RequestWordPacksTheFields :=
  ⟨fun i h => ⟨encode_toNat h, Nat.le_of_lt_succ (encode i).isLt⟩, packed_toNat, by decide, decodeWord_toNat⟩

end Sys2Proof

namespace Sys2Proof.Machine

/-! ## The step of a request -/

/-- A request with a valid opcode completes, with its operands as the host reads them (40_execute.md R62). -/
theorem step_request_of_some {r : Request} {o : Opcode} (s : State) (rest : List Action) (h : decodeRaw r.op = some o) :
    step { s with pending := .request r :: rest } =
      .next (complete (alu o (r.a.resolve { s with pending := rest }) (r.b.resolve { s with pending := rest }))
        { s with pending := rest }) :=
  presentRequest_of_some _ h

/-- A request that the adapter rejects is the fault, with the request's own opcode (30_encoding.md R46). -/
theorem step_request_of_invalid {r : Request} (s : State) (rest : List Action) (h : ¬ (0 ≤ r.op ∧ r.op ≤ 5)) :
    step { s with pending := .request r :: rest } = .fault (.invalidOpcode r.op) :=
  presentRequest_of_invalid _ h

/-- Settles O7: the adapter tests the integer itself, so a rejected one reaches the fault as it came, and one in 0..5
names an operation, which completes. -/
theorem rawOpcodeIsNeverReduced : Obligations.RawOpcodeIsNeverReduced := by
  intro op a b s rest
  constructor
  · exact fun hinvalid => ⟨(decodeRaw_eq_none_iff op).2 hinvalid, step_request_of_invalid s rest hinvalid⟩
  · intro hvalid
    obtain ⟨o, ho⟩ := decodeRaw_of_valid hvalid
    exact ⟨decodeRaw_eq_decodePort_ofInt hvalid, _, step_request_of_some s rest ho⟩

/-- The request of a pattern that selects nothing is the fault with that pattern's number (30_encoding.md R41, R47). -/
theorem step_plainRequest_of_emptyPattern {op : BitVec 3} (a b : Int) (s : State) (rest : List Action)
    (h : decodePort op = none) :
    step { s with pending := .request (Request.plain (op.toNat : Int) a b) :: rest } =
      .fault (.invalidOpcode (op.toNat : Int)) :=
  step_request_of_invalid s rest ((decodeRaw_eq_none_iff _).1 ((decodeRaw_toNat op).trans h))

/-- Settles O2: the port's table is its eight patterns; the fault of the two empty ones is that of the raw-integer
boundary. -/
theorem opPortSelectsTheSixOperations : Obligations.OpPortSelectsTheSixOperations :=
  ⟨rfl, rfl, rfl, rfl, rfl, rfl, by decide, fun _ a b s rest h => step_plainRequest_of_emptyPattern a b s rest h,
    decodePort_encodePort, fun _ _ => encodePort_of_decodePort⟩

/-! ## NOT and its second operand -/

/-- NOT answers the same for every second operand (30_encoding.md R49). -/
theorem exec_not_congr_snd (a b b' : Int) (s : State) : exec (.not a b) s = exec (.not a b') s := by
  simp only [exec, execNot, aluNot_eq]

/-- The notation `NOT a` presents 0 as its second operand (30_encoding.md R51). -/
theorem decoded_notOf (a : HostOperand) (s : State) : (Request.notOf a).decoded s = .ok (.not (a.resolve s) 0) :=
  decodeRequest_of_some (a.resolve s) 0 (decodeRaw_encodeRaw .not)

/-- Settles O20: NOT is decoded from its opcode field alone, and its handler does not read the second operand. -/
theorem notIgnoresItsSecondOperand : Obligations.NotIgnoresItsSecondOperand :=
  ⟨decodeReq19_append .not, exec_not_congr_snd, fun _ _ s => ⟨_, exec_eq _ s⟩, decoded_notOf⟩

end Sys2Proof.Machine
end

section
/-! PROOF. Execution (40_execute.md R60): what an instruction writes, and that it writes nothing else. -/

namespace Sys2Proof.Machine

/-- The frame of stage 7: besides the snapshot, only the record changes, by the new snapshot as the response
(40_execute.md R59, R60). -/
theorem complete_frame (r : Response) (s : State) :
    complete r s =
      { s with lr := (complete r s).lr, lf := (complete r s).lf,
               seen := s.seen ++ [.response (complete r s).snapshot] } := rfl

/-- An instruction completes with the combinational function of its operation and operands (40_execute.md R62). -/
theorem exec_completes (i : Instr) (s : State) :
    Completes i s (complete (alu i.opcode i.fstOperand i.sndOperand) s) :=
  ⟨exec_eq i s, complete_frame _ s⟩

/-- Settles O9: `exec` answers `complete` of the instruction's response, whose frame is `complete_frame`. -/
theorem completedRequestWritesOnlyTheSnapshot : Obligations.CompletedRequestWritesOnlyTheSnapshot :=
  fun i s => ⟨_, exec_completes i s⟩

end Sys2Proof.Machine
end

section
/-! PROOF. Arithmetic (41_arithmetic.md R63, R64; the flags by 43_flags.md R77 to R83): result and flags of ADD and SUB
as arithmetic on the operand bytes, the nine-bit and gate forms, and where SUB differs from adding the negated byte. -/

namespace Sys2Proof.Machine

/-! ## Nine-bit words -/

/-- A byte is bits 7:0 of a nine-bit word exactly when it is the word's value modulo 256. -/
theorem eq_extract_lowByte_iff (y : Byte) (w : BitVec 9) : y = w.extractLsb' 0 8 ↔ y.toNat = w.toNat % 256 := by
  rw [BitVec.toNat_eq, extract_toNat]
  omega

/-- Bit 8 of a nine-bit word is set exactly for the values 256..511. -/
theorem getLsbD_eight (w : BitVec 9) : w.getLsbD 8 = decide (256 ≤ w.toNat) := by
  rw [show w.getLsbD 8 = w.msb from rfl, BitVec.msb_eq_decide]

/-- The nine-bit sum of two bytes is exact (41_arithmetic.md R63). -/
theorem nineBitSum_toNat (x y : Byte) : (x.zeroExtend 9 + y.zeroExtend 9).toNat = x.toNat + y.toNat := by
  simp only [BitVec.toNat_add, BitVec.zeroExtend, BitVec.toNat_setWidth]
  omega

/-- The nine-bit difference of two bytes wraps modulo 512 (41_arithmetic.md R64). -/
theorem nineBitDifference_toNat (x y : Byte) :
    (x.zeroExtend 9 - y.zeroExtend 9).toNat = (x.toNat + 512 - y.toNat) % 512 := by
  simp only [BitVec.toNat_sub, BitVec.zeroExtend, BitVec.toNat_setWidth]
  omega

/-- Adding the complement and 1 is exact in nine bits, 256 above the difference (41_arithmetic.md R64). -/
theorem nineBitAdder_toNat (x y : Byte) :
    (x.zeroExtend 9 + (~~~y).zeroExtend 9 + 1#9).toNat = x.toNat + 256 - y.toNat := by
  rw [BitVec.toNat_add, nineBitSum_toNat, BitVec.toNat_not, BitVec.toNat_ofNat]
  omega

/-! ## ADD -/

/-- C of ADD on bytes (43_flags.md R79). -/
theorem carryOfSum_of_bytes (x y : Byte) :
    carryOfSum ((x.toNat : Int) + (y.toNat : Int)) = decide (255 < x.toNat + y.toNat) := by
  rw [carryOfSum, decide_eq_decide]
  omega

/-- Z of ADD on bytes (43_flags.md R77). -/
theorem zeroFlag_sum (x y : Byte) :
    zeroFlag (mask8 ((x.toNat : Int) + (y.toNat : Int))) = decide ((x.toNat + y.toNat) % 256 = 0) := by
  rw [zeroFlag_eq, mask8_add_toNat]

/-- The result of ADD is bits 7:0 of the nine-bit sum. -/
theorem mask8_add_eq_nineBitSum (x y : Byte) :
    mask8 ((x.toNat : Int) + (y.toNat : Int)) = (x.zeroExtend 9 + y.zeroExtend 9).extractLsb' 0 8 := by
  rw [eq_extract_lowByte_iff, nineBitSum_toNat, mask8_add_toNat]

/-- C of ADD is bit 8 of the nine-bit sum. -/
theorem carryOfSum_eq_nineBitSum (x y : Byte) :
    carryOfSum ((x.toNat : Int) + (y.toNat : Int)) = (x.zeroExtend 9 + y.zeroExtend 9).getLsbD 8 := by
  rw [carryOfSum_of_bytes, getLsbD_eight, nineBitSum_toNat, decide_eq_decide]
  omega

/-- What the result of ADD loses of the sum is the 256 that C reports (41_arithmetic.md R65). -/
theorem mask8_add_toNat_add_carry (x y : Byte) :
    (mask8 ((x.toNat : Int) + (y.toNat : Int))).toNat +
      256 * (carryOfSum ((x.toNat : Int) + (y.toNat : Int))).toNat = x.toNat + y.toNat := by
  rw [mask8_add_toNat, carryOfSum_of_bytes]
  by_cases h : 255 < x.toNat + y.toNat
  · simp only [h, decide_true, Bool.toNat_true]
    omega
  · simp only [h, decide_false, Bool.toNat_false]
    omega

/-- V of ADD in gates (43_flags.md R82). -/
theorem overflowOfAdd_eq_gates (x y r : Byte) :
    overflowOfAdd x y r = (!(x.getLsbD 7 ^^ y.getLsbD 7) && (x.getLsbD 7 ^^ r.getLsbD 7)) := by
  rw [overflowOfAdd, sign, sign, sign, bne_comm (a := r.getLsbD 7)]
  exact congrArg (· && _) (Bool.not_not _).symm

/-- Settles O14: the completed state holds the response `aluAdd` spells out, and each clause is one form of one of its
fields. -/
theorem addGivesSumAndFlags : Obligations.AddGivesSumAndFlags := by
  refine ⟨encode_of_bytes .add, ?_⟩
  rintro a b _ _ s rfl rfl
  exact ⟨_, exec_completes (.add a b) s, mask8_add_toNat _ _, zeroFlag_sum _ _, rfl, carryOfSum_of_bytes _ _, rfl,
    mask8_add_eq_nineBitSum _ _, carryOfSum_eq_nineBitSum _ _, mask8_add_toNat_add_carry _ _,
    overflowOfAdd_eq_gates _ _ _⟩

/-! ## SUB -/

/-- C of SUB on bytes is the unsigned comparison (43_flags.md R80). -/
theorem borrowOfDifference_of_bytes (x y : Byte) :
    borrowOfDifference ((x.toNat : Int) - (y.toNat : Int)) = decide (x.toNat < y.toNat) := by
  rw [borrowOfDifference, decide_eq_decide]
  omega

/-- The low byte of the difference of two bytes is their difference as words. -/
theorem mask8_sub_eq (x y : Byte) : mask8 ((x.toNat : Int) - (y.toNat : Int)) = x - y := by
  rw [BitVec.toNat_eq, mask8_sub_toNat, BitVec.toNat_sub]
  omega

/-- Z of SUB tells equal operands (43_flags.md R77). -/
theorem zeroFlag_difference (x y : Byte) :
    zeroFlag (mask8 ((x.toNat : Int) - (y.toNat : Int))) = decide (x = y) := by
  rw [mask8_sub_eq, zeroFlag, decide_eq_decide]
  exact sub_eq_zero

/-- The result of SUB is bits 7:0 of the nine-bit difference. -/
theorem mask8_sub_eq_nineBitDifference (x y : Byte) :
    mask8 ((x.toNat : Int) - (y.toNat : Int)) = (x.zeroExtend 9 - y.zeroExtend 9).extractLsb' 0 8 := by
  rw [eq_extract_lowByte_iff, nineBitDifference_toNat, mask8_sub_toNat]
  omega

/-- C of SUB is bit 8 of the nine-bit difference. -/
theorem borrowOfDifference_eq_nineBitDifference (x y : Byte) :
    borrowOfDifference ((x.toNat : Int) - (y.toNat : Int)) = (x.zeroExtend 9 - y.zeroExtend 9).getLsbD 8 := by
  rw [borrowOfDifference_of_bytes, getLsbD_eight, nineBitDifference_toNat, decide_eq_decide]
  omega

/-- The result of SUB is bits 7:0 of the adder form. -/
theorem mask8_sub_eq_nineBitAdder (x y : Byte) :
    mask8 ((x.toNat : Int) - (y.toNat : Int)) =
      (x.zeroExtend 9 + (~~~y).zeroExtend 9 + 1#9).extractLsb' 0 8 := by
  rw [eq_extract_lowByte_iff, nineBitAdder_toNat, mask8_sub_toNat]

/-- C of SUB is the inverse of the carry out of the adder form. -/
theorem borrowOfDifference_eq_not_nineBitAdder (x y : Byte) :
    borrowOfDifference ((x.toNat : Int) - (y.toNat : Int)) =
      !(x.zeroExtend 9 + (~~~y).zeroExtend 9 + 1#9).getLsbD 8 := by
  rw [borrowOfDifference_of_bytes, getLsbD_eight, nineBitAdder_toNat, ← decide_not, decide_eq_decide]
  omega

/-- What the result of SUB adds to the difference is the 256 that C reports (41_arithmetic.md R65). -/
theorem mask8_sub_toNat_sub_borrow (x y : Byte) :
    ((mask8 ((x.toNat : Int) - (y.toNat : Int))).toNat : Int) -
      256 * ((borrowOfDifference ((x.toNat : Int) - (y.toNat : Int))).toNat : Int) =
        (x.toNat : Int) - (y.toNat : Int) := by
  rw [mask8_toNat, borrowOfDifference_of_bytes]
  by_cases h : x.toNat < y.toNat
  · simp only [h, decide_true, Bool.toNat_true]
    omega
  · simp only [h, decide_false, Bool.toNat_false]
    omega

/-- V of SUB in gates (43_flags.md R83). -/
theorem overflowOfSub_eq_gates (x y r : Byte) :
    overflowOfSub x y r = ((x.getLsbD 7 ^^ y.getLsbD 7) && (x.getLsbD 7 ^^ r.getLsbD 7)) := by
  rw [overflowOfSub, sign, sign, sign, bne_comm (a := r.getLsbD 7)]

/-! ## SUB against ADD of the negated byte -/

/-- The negated byte as a number. -/
theorem neg_toNat (y : Byte) : (0#8 - y).toNat = (256 - y.toNat) % 256 := by
  rw [BitVec.toNat_sub, BitVec.toNat_ofNat]
  omega

/-- Adding the negated byte gives the byte of the difference. -/
theorem mask8_add_neg (x y : Byte) :
    mask8 ((x.toNat : Int) + ((0#8 - y).toNat : Int)) = mask8 ((x.toNat : Int) - (y.toNat : Int)) := by
  rw [BitVec.toNat_eq, mask8_add_toNat, mask8_sub_toNat, neg_toNat]
  omega

/-- Negation flips the sign of every byte but 0 and 128. -/
theorem sign_neg (y : Byte) (h0 : y ≠ 0#8) (h128 : y ≠ 128#8) : sign (0#8 - y) = !sign y := by
  rw [Ne, BitVec.toNat_eq, BitVec.toNat_ofNat] at h0 h128
  rw [sign_eq, sign_eq, neg_toNat, ← decide_not, decide_eq_decide]
  omega

/-- Subtracting 128 flips the sign of every byte. -/
theorem sign_sub_128 (x : Byte) : sign (x - 128#8) = !sign x := by
  rw [sign_eq, sign_eq, BitVec.toNat_sub, BitVec.toNat_ofNat, ← decide_not, decide_eq_decide]
  omega

/-- V of SUB and of ADD of the negated byte differ exactly for the byte 128, which is its own negation
(41_arithmetic.md R64). -/
theorem overflowOfAdd_neg_ne_overflowOfSub_iff (x y : Byte) :
    overflowOfAdd x (0#8 - y) (x - y) ≠ overflowOfSub x y (x - y) ↔ y = 128#8 := by
  by_cases h128 : y = 128#8
  · subst h128
    simp only [overflowOfAdd, overflowOfSub, sign_sub_128]
    cases sign x <;> decide
  · by_cases h0 : y = 0#8
    · subst h0
      simp [overflowOfAdd, overflowOfSub]
    · have hsigns : (sign x == !sign y) = (sign x != sign y) := by cases sign x <;> cases sign y <;> rfl
      simp only [overflowOfAdd, overflowOfSub, sign_neg y h0 h128, hsigns, ne_eq, not_true_eq_false, h128]

/-- C of ADD of the negated byte is the inverse of C of SUB except for the byte 0, where both are clear
(41_arithmetic.md R64). -/
theorem carryOfSum_neg_eq_not_borrow_iff (x y : Byte) :
    carryOfSum ((x.toNat : Int) + ((0#8 - y).toNat : Int)) =
      !borrowOfDifference ((x.toNat : Int) - (y.toNat : Int)) ↔ y ≠ 0#8 := by
  rw [carryOfSum_of_bytes, borrowOfDifference_of_bytes, neg_toNat, ← decide_not, decide_eq_decide, Ne, BitVec.toNat_eq,
    BitVec.toNat_ofNat]
  have := x.isLt
  have := y.isLt
  omega

/-- The response of ADD of the negated byte, against that of SUB (41_arithmetic.md R64). -/
theorem aluAdd_neg_compared_with_aluSub (a b : Int) :
    (aluAdd (mask8 a).toNat (0#8 - mask8 b).toNat).y = (aluSub a b).y ∧
    ((aluAdd (mask8 a).toNat (0#8 - mask8 b).toNat).flags.v ≠ (aluSub a b).flags.v ↔ mask8 b = 128#8) ∧
    ((aluAdd (mask8 a).toNat (0#8 - mask8 b).toNat).flags.c = !(aluSub a b).flags.c ↔ mask8 b ≠ 0#8) := by
  simp only [aluAdd_eq, aluSub_eq, mask8_of_byte, mask8_add_neg, mask8_sub_eq]
  exact ⟨trivial, overflowOfAdd_neg_ne_overflowOfSub_iff _ _, carryOfSum_neg_eq_not_borrow_iff _ _⟩

/-- Settles O15: the completed state holds the response `aluSub` spells out, each clause but the last is one form of one of
its fields, and the last compares it with `aluAdd` of the negated byte. -/
theorem subGivesDifferenceAndFlags : Obligations.SubGivesDifferenceAndFlags := by
  refine ⟨encode_of_bytes .sub, ?_⟩
  rintro a b _ _ s rfl rfl
  refine ⟨_, exec_completes (.sub a b) s, mask8_toNat _, zeroFlag_difference _ _, rfl, rfl, rfl,
    mask8_sub_eq_nineBitDifference _ _, borrowOfDifference_eq_nineBitDifference _ _,
    mask8_sub_eq_nineBitAdder _ _, borrowOfDifference_eq_not_nineBitAdder _ _, borrowOfDifference_of_bytes _ _,
    mask8_sub_toNat_sub_borrow _ _, overflowOfSub_eq_gates _ _ _, ?_⟩
  rintro _ ⟨⟩
  exact aluAdd_neg_compared_with_aluSub a b

end Sys2Proof.Machine
end

section
/-! PROOF. Logic (42_logic.md R69 to R73; the flags by 43_flags.md R77, R78, R81, R84): results of AND, OR, XOR and NOT
bit by bit, and the flags they leave. -/

namespace Sys2Proof.Machine

/-! ## Z of a logical result, from the operands -/

/-- Z of OR tells that both operands are 0 (42_logic.md R70). -/
theorem zeroFlag_or (x y : Byte) : zeroFlag (x ||| y) = decide (x.toNat = 0 ∧ y.toNat = 0) := by
  rw [zeroFlag, decide_eq_decide, BitVec.or_eq_zero_iff, BitVec.toNat_eq, BitVec.toNat_eq]
  rfl

/-- Z of XOR tells equal operands (42_logic.md R71). -/
theorem zeroFlag_xor (x y : Byte) : zeroFlag (x ^^^ y) = decide (x = y) := by
  rw [zeroFlag, decide_eq_decide]
  exact BitVec.xor_eq_zero_iff

/-- Z of NOT tells the operand 0xFF (42_logic.md R72). -/
theorem zeroFlag_not (x : Byte) : zeroFlag (~~~x) = decide (x = 0xFF#8) := by
  rw [zeroFlag, decide_eq_decide]
  exact BitVec.not_eq_comm

/-! ## The complement of a byte -/

/-- Each bit of the complement; unlike those of AND, OR and XOR, only below the width. -/
theorem getLsbD_complement (x : Byte) {k : Nat} (hk : k < 8) : (~~~x).getLsbD k = !x.getLsbD k := by
  rw [BitVec.getLsbD_not, decide_eq_true hk, Bool.true_and]

/-- NOT as a signed value (42_logic.md R72). -/
theorem toInt_complement (x : Byte) : (~~~x).toInt = -x.toInt - 1 := by
  rw [toInt_eq, toInt_eq, BitVec.toNat_not]
  have := x.isLt
  split <;> split <;> omega

/-! ## The four operations -/

/-- Settles O16: the result is the conjunction of the bytes, whose bits are the conjunctions of their bits. -/
theorem andGivesConjunctionOfBits : Obligations.AndGivesConjunctionOfBits := by
  refine ⟨encode_of_bytes .and, ?_⟩
  rintro a b _ _ s rfl rfl
  exact ⟨_, exec_completes (.and a b) s, fun _ _ => BitVec.getLsbD_and, zeroFlag_eq _, BitVec.getLsbD_and, rfl, rfl⟩

/-- Settles O17: the result is the disjunction of the bytes, zero exactly when both are. -/
theorem orGivesDisjunctionOfBits : Obligations.OrGivesDisjunctionOfBits := by
  refine ⟨encode_of_bytes .or, ?_⟩
  rintro a b _ _ s rfl rfl
  exact ⟨_, exec_completes (.or a b) s, fun _ _ => BitVec.getLsbD_or, zeroFlag_or _ _, BitVec.getLsbD_or, rfl, rfl⟩

/-- Settles O18: the result is the exclusive or of the bytes, zero exactly when they are equal. -/
theorem xorGivesDifferenceOfBits : Obligations.XorGivesDifferenceOfBits := by
  refine ⟨encode_of_bytes .xor, ?_⟩
  rintro a b _ _ s rfl rfl
  exact ⟨_, exec_completes (.xor a b) s, fun _ _ => BitVec.getLsbD_xor, zeroFlag_xor _ _, BitVec.getLsbD_xor, rfl, rfl⟩

/-- Settles O19: the result is the complement of the first byte, and each clause is one form of it. -/
theorem notGivesComplementOfFirstOperand : Obligations.NotGivesComplementOfFirstOperand := by
  refine ⟨encode_of_bytes .not, ?_⟩
  rintro a b _ s rfl
  exact ⟨_, exec_completes (.not a b) s, fun _ hk => getLsbD_complement _ hk, BitVec.toNat_not,
    BitVec.xor_allOnes.symm, toInt_complement _, zeroFlag_not _, getLsbD_complement _ (by decide), rfl, rfl⟩

/-! ## The flags they share -/

/-- Every logical operation answers a response of the shape `logicalResponse` (42_logic.md R73). -/
theorem alu_eq_logicalResponse {o : Opcode} (h : o = .and ∨ o = .or ∨ o = .xor ∨ o = .not) (a b : Int) :
    ∃ y, alu o a b = logicalResponse y := by
  obtain rfl | rfl | rfl | rfl := h
  · exact ⟨_, aluAnd_eq a b⟩
  · exact ⟨_, aluOr_eq a b⟩
  · exact ⟨_, aluXor_eq a b⟩
  · exact ⟨_, aluNot_eq a b⟩

/-- A zero result is not negative (43_flags.md R77, R78). -/
theorem negativeFlag_of_zeroFlag {y : Byte} (h : zeroFlag y = true) : negativeFlag y = false := by
  rw [of_decide_eq_true h]
  rfl

/-- The packed flags of a logical response: none, N alone or Z alone (42_logic.md R73). -/
theorem packFlags_logicalResponse (y : Byte) :
    packFlags (logicalResponse y).flags = 0b0000#4 ∨
    packFlags (logicalResponse y).flags = 0b0100#4 ∨
    packFlags (logicalResponse y).flags = 0b1000#4 := by
  dsimp only [logicalResponse]
  cases hz : zeroFlag y with
  | true =>
    rw [negativeFlag_of_zeroFlag hz]
    exact .inr (.inr (by decide))
  | false =>
    cases negativeFlag y with
    | true => exact .inr (.inl (by decide))
    | false => exact .inl (by decide)

/-- Settles O22: the response of a logical operation is a `logicalResponse`, with C and V clear by its shape. -/
theorem logicalOperationsClearCarryAndOverflow : Obligations.LogicalOperationsClearCarryAndOverflow := by
  intro i s hlogical
  obtain ⟨y, hy⟩ := alu_eq_logicalResponse hlogical i.fstOperand i.sndOperand
  have hcompletes : Completes i s (complete (logicalResponse y) s) := hy ▸ exec_completes i s
  exact ⟨_, hcompletes, rfl, rfl, rfl, rfl, packFlags_logicalResponse y⟩

end Sys2Proof.Machine
end

section
/-! PROOF. Flags (43_flags.md R77, R78): Z and N of every result in the forms the source states, the bits of the byte and
the mask 0x80. -/

namespace Sys2Proof.Machine

/-- Z as the gate over all eight bits of the result (43_flags.md R77). -/
theorem zeroFlag_eq_gates (y : Byte) :
    zeroFlag y = !(y.getLsbD 7 || y.getLsbD 6 || y.getLsbD 5 || y.getLsbD 4 ||
      y.getLsbD 3 || y.getLsbD 2 || y.getLsbD 1 || y.getLsbD 0) := by
  have hbits : y = 0#8 ↔ ∀ k < 8, y.getLsbD k = false := by
    simp only [BitVec.eq_of_getLsbD_eq_iff, BitVec.getLsbD_zero]
  rw [zeroFlag, Bool.eq_iff_iff, decide_eq_true_iff, hbits]
  simp only [Nat.forall_lt_succ_right, Nat.not_lt_zero, false_implies, implies_true, true_and, Bool.not_eq_true',
    Bool.or_eq_false_iff]
  ac_nf

/-- N as the test of the result under the mask 0x80 (43_flags.md R78). -/
theorem negativeFlag_eq_and_mask (y : Byte) : negativeFlag y = decide (y &&& 0x80#8 ≠ 0#8) := by
  have hmask : y &&& 0x80#8 = if negativeFlag y then 0x80#8 else 0#8 := BitVec.and_twoPow y 7
  rw [hmask]
  cases negativeFlag y <;> rfl

/-- Settles O21: each response reports Z and N of its result, and each further form is a lemma about the result byte
alone; the source's examples are evaluated on `alu`. -/
theorem zeroAndNegativeReportTheResult : Obligations.ZeroAndNegativeReportTheResult := by
  refine ⟨fun i s => ?_, fun s => ⟨?_, ?_, ?_⟩⟩
  · obtain ⟨hz, hn⟩ := alu_znReportResult i.opcode i.fstOperand i.sndOperand
    exact ⟨_, exec_completes i s, hz, hz.trans (zeroFlag_eq_gates _), hn, hn.trans (negativeFlag_eq_and_mask _)⟩
  · have hsum : (aluAdd 255 1).y = 0#8 ∧ (aluAdd 255 1).flags.z = true ∧ (aluAdd 255 1).flags.c = true := by decide
    exact ⟨_, exec_eq (.add 255 1) s, hsum⟩
  · have hor : (aluOr 0x80 0).flags.n = true := by decide
    exact ⟨_, exec_eq (.or 0x80 0) s, hor⟩
  · have hsum : (aluAdd 100 50).y = 150#8 ∧ (aluAdd 100 50).flags.n = true := by decide
    exact ⟨_, exec_eq (.add 100 50) s, hsum⟩

end Sys2Proof.Machine
end

section
/-! PROOF. Reset (70_reset_and_hazards.md R102): the request level's action and the `rst` wire both load the reset
snapshot. -/

namespace Sys2Proof.Machine

/-- Reset wins at the edge, whatever the other inputs ask for (10_state.md R26). -/
theorem clockEdge_of_rst {i : PortIn} (s : State) (h : i.rst = true) : clockEdge i s = resetRegisters s := by
  simp [clockEdge, h]

/-- A reset presented next is performed. -/
theorem step_reset (s : State) (rest : List Action) :
    step { s with pending := .reset :: rest } = .next (hostReset { s with pending := rest }) := rfl

/-- A clock cycle driven next is performed, a failing one too: the hardware keeps no error state (60_exceptions.md R95). -/
theorem step_cycle (s : State) (i : PortIn) (rest : List Action) :
    step { s with pending := .cycle i :: rest } = .next (portCycle i { s with pending := rest }) := rfl

/-- Settles O28: the host's action loads the reset snapshot by definition, the clock cycle because reset wins at its
edge. -/
theorem resetGivesTheResetSnapshot : Obligations.ResetGivesTheResetSnapshot := by
  refine ⟨⟨rfl, rfl, rfl, rfl, rfl⟩, fun s rest => ?_, fun s i rest hrst => ?_⟩
  · exact ⟨_, step_reset s rest, hostReset_lr _, hostReset_lf _, hostReset_pending _⟩
  · have hedge := clockEdge_of_rst { s with pending := rest } hrst
    refine ⟨_, step_cycle s i rest, ?_, ?_, ?_⟩
    · rw [portCycle_lr, hedge, resetRegisters_lr, resetSnapshot]
    · rw [portCycle_lf, hedge, resetRegisters_lf, resetSnapshot]
    · rw [portCycle_pending, clockEdge_pending]

end Sys2Proof.Machine
end

section
/-! PROOF. Encoding (30_encoding.md section 1): decoding and encoding undo each other on legal words and well-formed
instructions. -/

namespace Sys2Proof

/-- Settles O1: the six legal words are the packed fields of their operations; the other two have an empty opcode
pattern. -/
theorem requestWordsDecodeAsTabled : Obligations.RequestWordsDecodeAsTabled :=
  ⟨decodeReq19_append .add 200#8 100#8, decodeReq19_append .sub 5#8 10#8, decodeReq19_append .and 0xAC#8 0xF0#8,
    decodeReq19_append .or 1#8 2#8, decodeReq19_append .xor 0x0F#8 0x05#8, decodeReq19_append .not 1#8 255#8,
    decodeReq19_of_none rfl, decodeReq19_of_none rfl⟩

/-- Settles O3: the three fields sliced back out of the word are the instruction's opcode and operands. -/
theorem decodeUndoesEncode : Obligations.DecodeUndoesEncode := by
  intro i hwf
  obtain ⟨hop, ha, hb⟩ := Laws.EncodedFields.of_instr i hwf
  have hport : decodePort ((encode i).extractLsb' 16 3) = some i.opcode := by rw [hop, decodePort_encodePort]
  rw [decodeReq19_of_some hport, ha, hb, instr_opcode]

/-- An operation on two bytes is well formed. -/
theorem wf_instr_of_bytes (o : Opcode) (a b : Byte) : (o.instr (a.toNat : Int) (b.toNat : Int)).wf = true := by
  rw [wf_iff, fstOperand_instr, sndOperand_instr]
  have := a.isLt
  have := b.isLt
  omega

/-- A legal word's opcode field is the pattern of some operation, and the word decodes to it on its two bytes. -/
theorem fields_of_decodeReq19_eq_ok {w : BitVec 19} {i : Instr} (h : decodeReq19 w = .ok i) :
    ∃ o, w.extractLsb' 16 3 = encodePort o ∧
      i = o.instr (w.extractLsb' 8 8).toNat (w.extractLsb' 0 8).toNat := by
  cases hp : decodePort (w.extractLsb' 16 3) with
  | none =>
    rw [decodeReq19_of_none hp] at h
    cases h
  | some o =>
    rw [decodeReq19_of_some hp] at h
    exact ⟨o, (encodePort_of_decodePort hp).symm, (Except.ok.inj h).symm⟩

/-- Settles O4: encoding the decoded instruction puts the word's own three fields side by side again. -/
theorem encodeUndoesDecode : Obligations.EncodeUndoesDecode := by
  intro w i h
  obtain ⟨o, hop, rfl⟩ := fields_of_decodeReq19_eq_ok h
  refine ⟨wf_instr_of_bytes o _ _, ?_⟩
  rw [encode_of_bytes, ← hop, fields_append]

end Sys2Proof
end

section
/-! PROOF. The outcome of a step (40_execute.md section 1, 60_exceptions.md section 1): which instruction it runs, and
when it fails. -/

namespace Sys2Proof.Machine

/-! ## Which instruction a request runs -/

/-- The host's list plays no part in what a request decodes to. -/
theorem decoded_setPending (r : Request) (s : State) (rest : List Action) :
    r.decoded { s with pending := rest } = r.decoded s := by
  obtain ⟨op, a, b⟩ := r
  cases a <;> cases b <;> rfl

theorem presentRequest_of_decoded {r : Request} {s : State} {i : Instr} (h : r.decoded s = .ok i) :
    presentRequest r s = exec i s := by
  simp only [presentRequest, h]

theorem decodeTableWord_eq_some_iff (nbits w : Nat) (i : Instr) :
    decodeTableWord nbits w = some i ↔ decodeWord (w % 2 ^ nbits) = .ok i := by
  unfold decodeTableWord
  cases decodeWord (w % 2 ^ nbits) <;> simp

/-- A word that decodes to nothing has an opcode field outside 0..5. -/
theorem wordOp_invalid_of_decodeTableWord {nbits w : Nat} (h : decodeTableWord nbits w = none) :
    ¬ (0 ≤ wordOp (w % 2 ^ nbits) ∧ wordOp (w % 2 ^ nbits) ≤ 5) := by
  intro hvalid
  obtain ⟨o, ho⟩ := decodeRaw_of_valid hvalid
  have hsome := (decodeTableWord_eq_some_iff nbits w _).2 (decodeRequest_of_some _ _ ho)
  rw [h] at hsome
  cases hsome

/-- A table word placed next is presented as the request of its three fields, in the state before. -/
theorem step_withFetchWord (s : State) (nbits w : Nat) :
    step (s.withFetchWord nbits w) = presentRequest (Request.ofWord (w % 2 ^ nbits)) s := rfl

theorem step_withFetchWord_of_some {nbits w : Nat} {i : Instr} (s : State) (h : decodeTableWord nbits w = some i) :
    step (s.withFetchWord nbits w) = exec i s := by
  rw [step_withFetchWord]
  exact presentRequest_of_decoded ((decodeTableWord_eq_some_iff nbits w i).1 h)

/-- The word of a well-formed instruction is a table word of that instruction. -/
theorem decodeTableWord_encode {i : Instr} (h : i.wf = true) : decodeTableWord 19 (encode i).toNat = some i := by
  rw [decodeTableWord_eq_some_iff, Nat.mod_eq_of_lt (encode i).isLt, decodeWord_toNat]
  exact decodeUndoesEncode i h

/-- Settles O8: a step presents the request at the head of the list, and what it decodes to does not depend on the
list. -/
theorem stepRunsDecodedInstruction : Obligations.StepRunsDecodedInstruction := by
  refine ⟨fun s r rest i hp hd => ?_, fun s _ _ _ h => step_withFetchWord_of_some s h, fun s nbits w h => ?_,
    fun s _ hwf => step_withFetchWord_of_some s (decodeTableWord_encode hwf)⟩
  · rw [step_of_pending hp]
    exact presentRequest_of_decoded ((decoded_setPending r s rest).trans hd)
  · rw [step_withFetchWord]
    exact presentRequest_of_invalid s (wordOp_invalid_of_decodeTableWord h)

/-! ## When a step fails -/

/-- An action completes, or it is a request with an invalid opcode and is the fault of that opcode. -/
theorem performAction_next_or_fault (act : Action) (s : State) :
    (∃ t, performAction act s = .next t) ∨
    (∃ r, act = .request r ∧ ¬ (0 ≤ r.op ∧ r.op ≤ 5) ∧ performAction act s = .fault (.invalidOpcode r.op)) := by
  cases act with
  | request r =>
    by_cases hvalid : 0 ≤ r.op ∧ r.op ≤ 5
    · obtain ⟨o, ho⟩ := decodeRaw_of_valid hvalid
      exact .inl ⟨_, presentRequest_of_some s ho⟩
    · exact .inr ⟨r, rfl, hvalid, presentRequest_of_invalid s hvalid⟩
  | read => exact .inl ⟨_, rfl⟩
  | reset => exact .inl ⟨_, rfl⟩
  | cycle i => exact .inl ⟨_, rfl⟩

/-- A step completes, or it takes a request with an invalid opcode and is the fault of that opcode. -/
theorem step_next_or_fault (s : State) :
    (∃ t, step s = .next t) ∨
    (∃ r rest, s.pending = .request r :: rest ∧ ¬ (0 ≤ r.op ∧ r.op ≤ 5) ∧ step s = .fault (.invalidOpcode r.op)) := by
  cases hp : s.pending with
  | nil => exact .inl ⟨s, step_of_idle hp⟩
  | cons act rest =>
    rw [step_of_pending hp]
    obtain hnext | ⟨r, rfl, hinvalid, hfault⟩ := performAction_next_or_fault act { s with pending := rest }
    · exact .inl hnext
    · exact .inr ⟨r, rest, rfl, hinvalid, hfault⟩

/-- A step that faults took a request with an invalid opcode, and the fault is that opcode's. -/
theorem request_of_step_eq_fault {s : State} {f : Fault} (h : step s = .fault f) :
    ∃ r rest, s.pending = .request r :: rest ∧ ¬ (0 ≤ r.op ∧ r.op ≤ 5) ∧ f = .invalidOpcode r.op := by
  obtain ⟨t, hnext⟩ | ⟨r, rest, hp, hinvalid, hfault⟩ := step_next_or_fault s
  · rw [hnext] at h
    cases h
  · rw [hfault] at h
    cases h
    exact ⟨r, rest, hp, hinvalid, rfl⟩

theorem step_ne_refused (s : State) (x : Refusal) : step s ≠ .refused x := by
  intro h
  obtain ⟨t, hnext⟩ | ⟨r, rest, _, _, hfault⟩ := step_next_or_fault s
  · rw [hnext] at h
    cases h
  · rw [hfault] at h
    cases h

/-- Settles O10: a step that is no next state is the fault of a request with an invalid opcode. -/
theorem onlyInvalidOpcodeFails : Obligations.OnlyInvalidOpcodeFails :=
  ⟨fun i s => ⟨_, exec_eq i s⟩, fun _ _ => request_of_step_eq_fault, step_ne_refused⟩

/-! ## Operands -/

/-- The fault of a request with an invalid opcode does not depend on its operands (60_exceptions.md R87). -/
theorem step_plainRequest_of_invalid {op : Int} (a b : Int) (s : State) (rest : List Action) (h : ¬ (0 ≤ op ∧ op ≤ 5)) :
    step { s with pending := .request (Request.plain op a b) :: rest } = .fault (.invalidOpcode op) :=
  step_request_of_invalid (r := Request.plain op a b) s rest h

/-- Settles O12: a valid opcode's response reads its operands through `mask8`, and a fault does not read them. -/
theorem operandsAreMaskedModulo256 : Obligations.OperandsAreMaskedModulo256 := by
  intro op a b s rest
  by_cases hvalid : 0 ≤ op ∧ op ≤ 5
  · obtain ⟨o, ho⟩ := decodeRaw_of_valid hvalid
    rw [step_plainRequest_of_some a b s rest ho, step_plainRequest_of_some _ _ s rest ho,
      alu_congr o (mask8_emod a) (mask8_emod b)]
  · rw [step_plainRequest_of_invalid a b s rest hvalid, step_plainRequest_of_invalid _ _ s rest hvalid]

/-- Settles O13: the token resolves to the value of `LR`, as that value itself does. -/
theorem lastResultTokenIsTheValueRead : Obligations.LastResultTokenIsTheValueRead :=
  fun _ _ _ _ => ⟨rfl, rfl⟩

/-! ## The err line -/

/-- No operation raises `err`. -/
@[simp] theorem errLine_encodePort (o : Opcode) : errLine (encodePort o) = false := by
  rw [errLine_eq, decodePort_encodePort, Option.isNone_some]

/-- Settles O40: `err` is raised exactly by the empty patterns of the port, and a fault carries the opcode of the request
it took. -/
theorem errLineIsOpcodeSixOrSeven : Obligations.ErrLineIsOpcodeSixOrSeven := by
  refine ⟨fun i s => ⟨rfl, ?_⟩, fun o i s hop => ?_, fun r s rest f h => ?_⟩
  · rw [portOutputs_err, errLine_iff]
    have := i.op.isLt
    omega
  · rw [portOutputs_err, hop, errLine_encodePort]
  · obtain ⟨_, _, hp, _, hf⟩ := request_of_step_eq_fault h
    cases hp
    exact hf

end Sys2Proof.Machine
end

section
/-! PROOF. What the flags mean (43_flags.md R85): overflow, order and true sign after ADD and SUB. -/

namespace Sys2Proof.Machine

/-! ## Signed bytes -/

/-- `s(v)` is in -128..127 (00_scope.md R7). -/
theorem toInt_bounds (x : Byte) : -128 ≤ x.toInt ∧ x.toInt ≤ 127 := by
  rw [toInt_eq]
  have := x.isLt
  split <;> omega

/-- The low byte of an integer, read signed, is the integer wrapped into -128..127. -/
theorem toInt_mask8 (i : Int) : (mask8 i).toInt = i.bmod 256 := by
  rw [mask8_eq_ofInt, BitVec.toInt_ofInt]

/-- N is the sign of the result read signed. -/
theorem negativeFlag_iff_toInt_neg (y : Byte) : negativeFlag y = true ↔ y.toInt < 0 := by
  rw [negativeFlag_eq, decide_eq_true_iff, toInt_eq]
  have := y.isLt
  split <;> omega

/-- N against V is the true sign of an exact result `d` (43_flags.md R85 (e)): wrapping `d` to a byte changes its sign
exactly where V reports it outside -128..127. -/
theorem negative_xor_overflow_iff {d : Int} {y : Byte} {v : Bool} (hlo : -256 ≤ d) (hhi : d ≤ 255)
    (hy : y.toInt = d.bmod 256) (hv : v = true ↔ ¬ (-128 ≤ d ∧ d ≤ 127)) : (negativeFlag y ^^ v) = true ↔ d < 0 := by
  rw [bne_iff_ne, Ne, Bool.eq_iff_iff, hv, negativeFlag_iff_toInt_neg, hy, Int.bmod_def]
  split <;> omega

/-! ## ADD -/

/-- The response of ADD on two bytes, which are their own normalisations. -/
theorem aluAdd_of_bytes (x y : Byte) :
    aluAdd (x.toNat : Int) (y.toNat : Int) =
      let r := mask8 ((x.toNat : Int) + (y.toNat : Int))
      { y := r
        flags := { z := zeroFlag r, n := negativeFlag r
                   c := carryOfSum ((x.toNat : Int) + (y.toNat : Int)), v := overflowOfAdd x y r } } := by
  simp only [aluAdd_eq, mask8_of_byte]

/-- C of ADD reports an unsigned sum above 255 (43_flags.md R85 (a)). -/
theorem carryOfSum_iff (x y : Byte) :
    carryOfSum ((x.toNat : Int) + (y.toNat : Int)) = true ↔ ¬ (x.toNat + y.toNat ≤ 255) := by
  rw [carryOfSum_of_bytes, decide_eq_true_iff, Nat.not_le]

/-- The result of ADD read signed is the signed sum wrapped. -/
theorem toInt_mask8_add (x y : Byte) :
    (mask8 ((x.toNat : Int) + (y.toNat : Int))).toInt = (x.toInt + y.toInt).bmod 256 := by
  rw [toInt_mask8, BitVec.toInt_eq_toNat_bmod, BitVec.toInt_eq_toNat_bmod, Int.bmod_add_bmod, Int.add_bmod_bmod]

/-- V of ADD reports a signed sum outside -128..127 (43_flags.md R85 (b)). -/
theorem overflowOfAdd_iff (x y : Byte) :
    overflowOfAdd x y (mask8 ((x.toNat : Int) + (y.toNat : Int))) = true ↔
      ¬ (-128 ≤ x.toInt + y.toInt ∧ x.toInt + y.toInt ≤ 127) := by
  rw [overflowOfAdd_eq, mask8_add_toNat, toInt_eq, toInt_eq, Bool.and_eq_true, beq_iff_eq, bne_iff_ne, Ne,
    decide_eq_decide, decide_eq_decide]
  have := x.isLt
  have := y.isLt
  split <;> split <;> omega

/-- V of ADD is the carry into bit 7 against the carry out of it (43_flags.md R85 (c)). -/
theorem overflowOfAdd_eq_carryChain (x y : Byte) :
    overflowOfAdd x y (mask8 ((x.toNat : Int) + (y.toNat : Int))) =
      (decide (127 < x.toNat % 128 + y.toNat % 128) ^^ carryOfSum ((x.toNat : Int) + (y.toNat : Int))) := by
  rw [Bool.eq_iff_iff, overflowOfAdd_iff, carryOfSum_of_bytes, bne_iff_ne, Ne, decide_eq_decide, toInt_eq, toInt_eq]
  have := x.isLt
  have := y.isLt
  split <;> split <;> omega

/-- N against V after ADD is the sign of the exact signed sum. -/
theorem negative_xor_overflow_of_add_iff (x y : Byte) :
    (negativeFlag (mask8 ((x.toNat : Int) + (y.toNat : Int))) ^^
      overflowOfAdd x y (mask8 ((x.toNat : Int) + (y.toNat : Int)))) = true ↔ x.toInt + y.toInt < 0 := by
  have := toInt_bounds x
  have := toInt_bounds y
  exact negative_xor_overflow_iff (by omega) (by omega) (toInt_mask8_add x y) (overflowOfAdd_iff x y)

/-! ## SUB -/

/-- The response of SUB on two bytes. -/
theorem aluSub_of_bytes (x y : Byte) :
    aluSub (x.toNat : Int) (y.toNat : Int) =
      let r := mask8 ((x.toNat : Int) - (y.toNat : Int))
      { y := r
        flags := { z := zeroFlag r, n := negativeFlag r
                   c := borrowOfDifference ((x.toNat : Int) - (y.toNat : Int)), v := overflowOfSub x y r } } := by
  simp only [aluSub_eq, mask8_of_byte]

/-- C of SUB is the unsigned comparison (43_flags.md R85 (d)). -/
theorem borrowOfDifference_iff (x y : Byte) :
    borrowOfDifference ((x.toNat : Int) - (y.toNat : Int)) = true ↔ x.toNat < y.toNat := by
  rw [borrowOfDifference_of_bytes, decide_eq_true_iff]

/-- Z of SUB tells equal bytes (43_flags.md R85 (d)). -/
theorem zeroFlag_difference_iff (x y : Byte) :
    zeroFlag (mask8 ((x.toNat : Int) - (y.toNat : Int))) = true ↔ x = y := by
  rw [zeroFlag_difference, decide_eq_true_iff]

/-- The result of SUB read signed is the signed difference wrapped. -/
theorem toInt_mask8_sub (x y : Byte) :
    (mask8 ((x.toNat : Int) - (y.toNat : Int))).toInt = (x.toInt - y.toInt).bmod 256 := by
  rw [toInt_mask8, BitVec.toInt_eq_toNat_bmod, BitVec.toInt_eq_toNat_bmod, Int.bmod_sub_bmod, Int.sub_bmod_bmod]

/-- V of SUB reports a signed difference outside -128..127 (43_flags.md R85 (b)). -/
theorem overflowOfSub_iff (x y : Byte) :
    overflowOfSub x y (mask8 ((x.toNat : Int) - (y.toNat : Int))) = true ↔
      ¬ (-128 ≤ x.toInt - y.toInt ∧ x.toInt - y.toInt ≤ 127) := by
  rw [overflowOfSub_eq, mask8_sub_toNat, toInt_eq, toInt_eq, Bool.and_eq_true, bne_iff_ne, bne_iff_ne, Ne, Ne,
    decide_eq_decide, decide_eq_decide]
  have := x.isLt
  have := y.isLt
  split <;> split <;> omega

/-- V of SUB is the borrow into bit 7 against the borrow out of it (43_flags.md R85 (c)). -/
theorem overflowOfSub_eq_borrowChain (x y : Byte) :
    overflowOfSub x y (mask8 ((x.toNat : Int) - (y.toNat : Int))) =
      (decide (x.toNat % 128 < y.toNat % 128) ^^ borrowOfDifference ((x.toNat : Int) - (y.toNat : Int))) := by
  rw [Bool.eq_iff_iff, overflowOfSub_iff, borrowOfDifference_of_bytes, bne_iff_ne, Ne, decide_eq_decide, toInt_eq,
    toInt_eq]
  have := x.isLt
  have := y.isLt
  split <;> split <;> omega

/-- N against V after SUB is the sign of the exact signed difference. -/
theorem negative_xor_overflow_of_sub_iff (x y : Byte) :
    (negativeFlag (mask8 ((x.toNat : Int) - (y.toNat : Int))) ^^
      overflowOfSub x y (mask8 ((x.toNat : Int) - (y.toNat : Int)))) = true ↔ x.toInt - y.toInt < 0 := by
  have := toInt_bounds x
  have := toInt_bounds y
  exact negative_xor_overflow_iff (by omega) (by omega) (toInt_mask8_sub x y) (overflowOfSub_iff x y)

/-! ## The two together -/

/-- What the flags of ADD on two bytes report. -/
theorem aluAdd_flags_report (x y : Byte) :
    let r := aluAdd (x.toNat : Int) (y.toNat : Int)
    (r.flags.c = true ↔ ¬ (x.toNat + y.toNat ≤ 255)) ∧
    (r.flags.v = true ↔ ¬ (-128 ≤ x.toInt + y.toInt ∧ x.toInt + y.toInt ≤ 127)) ∧
    r.flags.v = (decide (127 < x.toNat % 128 + y.toNat % 128) ^^ r.flags.c) ∧
    ((r.flags.n ^^ r.flags.v) = true ↔ x.toInt + y.toInt < 0) ∧
    r.y.toInt = (x.toInt + y.toInt).bmod 256 := by
  rw [aluAdd_of_bytes]
  exact ⟨carryOfSum_iff x y, overflowOfAdd_iff x y, overflowOfAdd_eq_carryChain x y,
    negative_xor_overflow_of_add_iff x y, toInt_mask8_add x y⟩

/-- What the flags of SUB on two bytes report. -/
theorem aluSub_flags_report (x y : Byte) :
    let r := aluSub (x.toNat : Int) (y.toNat : Int)
    (r.flags.c = true ↔ x.toNat < y.toNat) ∧
    (r.flags.v = true ↔ ¬ (-128 ≤ x.toInt - y.toInt ∧ x.toInt - y.toInt ≤ 127)) ∧
    r.flags.v = (decide (x.toNat % 128 < y.toNat % 128) ^^ r.flags.c) ∧
    ((r.flags.n ^^ r.flags.v) = true ↔ x.toInt - y.toInt < 0) ∧
    r.y.toInt = (x.toInt - y.toInt).bmod 256 ∧
    (r.flags.z = true ↔ x = y) := by
  rw [aluSub_of_bytes]
  exact ⟨borrowOfDifference_iff x y, overflowOfSub_iff x y, overflowOfSub_eq_borrowChain x y,
    negative_xor_overflow_of_sub_iff x y, toInt_mask8_sub x y, zeroFlag_difference_iff x y⟩

/-- Settles O23: the completed state holds the response of ADD or SUB on the two bytes; the comparisons after SUB restate
its borrow and its true sign. -/
theorem arithmeticFlagsReportOverflowAndOrder : Obligations.ArithmeticFlagsReportOverflowAndOrder := by
  constructor
  · rintro a b s _ ⟨⟩
    exact aluAdd_flags_report a b
  · rintro a b s _ ⟨⟩
    obtain ⟨hc, hv, hchain, hsign, hy, hz⟩ := aluSub_flags_report a b
    refine ⟨hc.trans ?_, hv, hchain, hsign, hy, ?_, hz, hc⟩
    · omega
    · exact bne_iff_ne.symm.trans (hsign.trans sub_neg)

end Sys2Proof.Machine
end

section
/-! PROOF. The flag sets each operation can produce (43_flags.md R86): the sets its rules leave open, and operands that
reach each of them. -/

namespace Sys2Proof.Machine

/-- The flag sets of the table of 43_flags.md R86, read ZNCV. -/
def flagSets : Opcode → List (BitVec 4)
  | .add => [0b0000#4, 0b0010#4, 0b0011#4, 0b0100#4, 0b0101#4, 0b0110#4, 0b1000#4, 0b1010#4, 0b1011#4]
  | .sub => [0b0000#4, 0b0001#4, 0b0010#4, 0b0100#4, 0b0110#4, 0b0111#4, 0b1000#4]
  | _ => [0b0000#4, 0b0100#4, 0b1000#4]

/-- Operands that reach the flag sets of an operation, in the order of `flagSets`. -/
def flagWitnesses : Opcode → List (Int × Int)
  | .add => [(1, 1), (255, 2), (128, 129), (128, 0), (127, 1), (255, 129), (0, 0), (255, 1), (128, 128)]
  | .sub => [(1, 0), (128, 1), (1, 254), (128, 0), (0, 1), (0, 128), (0, 0)]
  | .and => [(1, 1), (128, 128), (0, 0)]
  | .or => [(1, 1), (128, 128), (0, 0)]
  | .xor => [(1, 0), (128, 0), (0, 0)]
  | .not => [(254, 0), (127, 0), (255, 0)]

theorem packFlags_flagWitnesses (o : Opcode) :
    (flagWitnesses o).map (fun p => packFlags (alu o p.1 p.2).flags) = flagSets o := by
  cases o <;> decide

/-- Each flag set of the table occurs. -/
theorem exists_operands_of_mem_flagSets {o : Opcode} {f : BitVec 4} (h : f ∈ flagSets o) :
    ∃ a b, packFlags (alu o a b).flags = f := by
  rw [← packFlags_flagWitnesses] at h
  obtain ⟨⟨a, b⟩, _, hf⟩ := List.mem_map.1 h
  exact ⟨a, b, hf⟩

/-- What R86 excludes for ADD: Z with N, and V with C equal to N (an overflowing sum is negative exactly if it did not
carry). -/
theorem mem_flagSets_add {f : Flags} (hzn : f.z = true → f.n = false) (hv : f.v = true → f.n = !f.c) :
    packFlags f ∈ flagSets .add := by
  obtain ⟨z, n, c, v⟩ := f
  revert z n c v
  decide

/-- What R86 excludes for SUB: any other flag with Z, and V with C different from N. -/
theorem mem_flagSets_sub {f : Flags} (hz : f.z = true → f.n = false ∧ f.c = false ∧ f.v = false)
    (hv : f.v = true → f.n = f.c) : packFlags f ∈ flagSets .sub := by
  obtain ⟨z, n, c, v⟩ := f
  revert z n c v
  decide

/-- An overflowing sum of two bytes is negative exactly if it did not carry. -/
theorem negativeFlag_of_overflowOfAdd (x y : Byte)
    (h : overflowOfAdd x y (mask8 ((x.toNat : Int) + (y.toNat : Int))) = true) :
    negativeFlag (mask8 ((x.toNat : Int) + (y.toNat : Int))) = !carryOfSum ((x.toNat : Int) + (y.toNat : Int)) := by
  rw [overflowOfAdd_eq, mask8_add_toNat, Bool.and_eq_true, beq_iff_eq, bne_iff_ne, Ne, decide_eq_decide,
    decide_eq_decide] at h
  rw [negativeFlag_eq, mask8_add_toNat, carryOfSum_of_bytes, ← decide_not, decide_eq_decide]
  have := x.isLt
  have := y.isLt
  omega

/-- An overflowing difference of two bytes is negative exactly if it borrowed. -/
theorem negativeFlag_of_overflowOfSub (x y : Byte)
    (h : overflowOfSub x y (mask8 ((x.toNat : Int) - (y.toNat : Int))) = true) :
    negativeFlag (mask8 ((x.toNat : Int) - (y.toNat : Int))) =
      borrowOfDifference ((x.toNat : Int) - (y.toNat : Int)) := by
  rw [overflowOfSub_eq, mask8_sub_toNat, Bool.and_eq_true, bne_iff_ne, bne_iff_ne, Ne, Ne, decide_eq_decide,
    decide_eq_decide] at h
  rw [negativeFlag_eq, mask8_sub_toNat, borrowOfDifference_of_bytes, decide_eq_decide]
  have := x.isLt
  have := y.isLt
  omega

/-- A zero difference of two bytes neither borrows nor overflows: the bytes are equal. -/
theorem flags_of_zero_difference (x y : Byte) (h : zeroFlag (mask8 ((x.toNat : Int) - (y.toNat : Int))) = true) :
    negativeFlag (mask8 ((x.toNat : Int) - (y.toNat : Int))) = false ∧
    borrowOfDifference ((x.toNat : Int) - (y.toNat : Int)) = false ∧
    overflowOfSub x y (mask8 ((x.toNat : Int) - (y.toNat : Int))) = false := by
  obtain rfl := (zeroFlag_difference_iff x y).1 h
  refine ⟨negativeFlag_of_zeroFlag h, ?_, ?_⟩
  · rw [borrowOfDifference_of_bytes, decide_eq_false (Nat.lt_irrefl _)]
  · rw [overflowOfSub, bne_self_eq_false, Bool.false_and]

theorem packFlags_aluAdd_mem (a b : Int) : packFlags (aluAdd a b).flags ∈ flagSets .add :=
  mem_flagSets_add negativeFlag_of_zeroFlag (negativeFlag_of_overflowOfAdd (mask8 a) (mask8 b))

theorem packFlags_aluSub_mem (a b : Int) : packFlags (aluSub a b).flags ∈ flagSets .sub :=
  mem_flagSets_sub (flags_of_zero_difference (mask8 a) (mask8 b)) (negativeFlag_of_overflowOfSub (mask8 a) (mask8 b))

/-- A logical response has one of the three flag sets of R86. -/
theorem packFlags_logicalResponse_mem (y : Byte) :
    packFlags (logicalResponse y).flags ∈ [0b0000#4, 0b0100#4, 0b1000#4] := by
  simpa only [List.mem_cons, List.not_mem_nil, or_false] using packFlags_logicalResponse y

/-- No other flag set occurs. -/
theorem packFlags_alu_mem (o : Opcode) (a b : Int) : packFlags (alu o a b).flags ∈ flagSets o := by
  cases o with
  | add => exact packFlags_aluAdd_mem a b
  | sub => exact packFlags_aluSub_mem a b
  | and => exact packFlags_logicalResponse_mem _
  | or => exact packFlags_logicalResponse_mem _
  | xor => exact packFlags_logicalResponse_mem _
  | not => exact packFlags_logicalResponse_mem _

/-- The flag sets of an operation's executions are those of the table. -/
theorem exec_packFlags_iff_mem_flagSets (o : Opcode) (f : BitVec 4) :
    (∃ (a b : Int) (s t : State), exec (o.instr a b) s = .next t ∧ packFlags t.lf = f) ↔ f ∈ flagSets o := by
  constructor
  · rintro ⟨a, b, s, t, h, rfl⟩
    rw [exec_eq, opcode_instr, fstOperand_instr, sndOperand_instr] at h
    cases h
    exact packFlags_alu_mem o a b
  · intro h
    obtain ⟨a, b, hf⟩ := exists_operands_of_mem_flagSets h
    refine ⟨a, b, State.reset, _, exec_eq _ _, ?_⟩
    rw [complete_lf, opcode_instr, fstOperand_instr, sndOperand_instr, hf]

/-- Settles O24: the statement's lists are those of `flagSets`, operation by operation. -/
theorem reachableFlagSets : Obligations.ReachableFlagSets := by
  intro o f
  rw [exec_packFlags_iff_mem_flagSets]
  cases o <;> rfl

end Sys2Proof.Machine
end

section
/-! PROOF. Laws between the operations (41_arithmetic.md, 42_logic.md): identities of single responses, negation by two
routes, addition of sixteen bits, and the reset snapshot as no response. -/

namespace Sys2Proof.Machine

/-! ## ADD and SUB -/

/-- V of ADD does not depend on the order of the operands: it is clear unless their signs agree. -/
theorem overflowOfAdd_comm (x y r : Byte) : overflowOfAdd x y r = overflowOfAdd y x r := by
  unfold overflowOfAdd
  cases sign x <;> cases sign y <;> rfl

/-- ADD commutes in its whole response. -/
theorem aluAdd_comm (a b : Int) : aluAdd a b = aluAdd b a := by
  rw [aluAdd_eq, aluAdd_eq, Int.add_comm]
  dsimp only
  rw [overflowOfAdd_comm]

/-- The low byte of the sum of two bytes is their sum as words. -/
theorem mask8_add_eq (x y : Byte) : mask8 ((x.toNat : Int) + (y.toNat : Int)) = x + y := by
  rw [BitVec.toNat_eq, mask8_add_toNat, BitVec.toNat_add]

/-- The result of ADD as a word. -/
theorem aluAdd_y_eq (a b : Int) : (aluAdd a b).y = mask8 a + mask8 b := mask8_add_eq _ _

/-- The result of SUB as a word. -/
theorem aluSub_y_eq (a b : Int) : (aluSub a b).y = mask8 a - mask8 b := mask8_sub_eq _ _

/-- SUB undoes ADD on the result. -/
theorem aluSub_aluAdd_y (x y : Byte) : (aluSub ((aluAdd x.toNat y.toNat).y.toNat : Int) (y.toNat : Int)).y = x := by
  rw [aluSub_y_eq, aluAdd_y_eq, mask8_of_byte, mask8_of_byte, mask8_of_byte, BitVec.add_sub_cancel]

/-! ## NOT by other operations -/

theorem sign_complement (x : Byte) : sign (~~~x) = !sign x := getLsbD_complement x (by decide)

/-- XOR with 0xFF answers like NOT. -/
theorem aluXor_255 (a b : Int) : aluXor a 0xFF = aluNot a b := by
  have hxor : mask8 a ^^^ mask8 0xFF = ~~~(mask8 a) := BitVec.xor_allOnes
  rw [aluXor_eq, aluNot_eq, hxor]

/-- SUB from 0xFF answers like NOT: the difference is the complement, and it neither borrows nor overflows. -/
theorem aluSub_255 (a b : Int) : aluSub 0xFF a = aluNot a b := by
  have hdifference : mask8 (((mask8 0xFF).toNat : Int) - ((mask8 a).toNat : Int)) = ~~~(mask8 a) := by
    rw [mask8_sub_eq]
    exact BitVec.allOnes_sub_eq_not _
  have hborrow : borrowOfDifference (((mask8 0xFF).toNat : Int) - ((mask8 a).toNat : Int)) = false := by
    rw [borrowOfDifference_of_bytes]
    exact decide_eq_false (Nat.not_lt_of_le (Nat.le_of_lt_succ (mask8 a).isLt))
  have hoverflow : overflowOfSub (mask8 0xFF) (mask8 a) (~~~(mask8 a)) = false := by
    have hsign : sign (mask8 0xFF) = true := by decide
    rw [overflowOfSub, sign_complement, hsign]
    cases sign (mask8 a) <;> rfl
  rw [aluSub_eq, aluNot_eq, hdifference, hborrow]
  dsimp only
  rw [hoverflow, logicalResponse]

/-- NOT undoes itself. -/
theorem aluNot_aluNot_y (x : Byte) (b b' : Int) : (aluNot ((aluNot (x.toNat : Int) b).y.toNat : Int) b').y = x := by
  rw [aluNot_eq, aluNot_eq, logicalResponse, logicalResponse, mask8_of_byte, mask8_of_byte, BitVec.not_not]

/-! ## A byte with itself -/

theorem aluAnd_self_y (x : Byte) : (aluAnd (x.toNat : Int) (x.toNat : Int)).y = x := by
  rw [aluAnd_eq, logicalResponse, mask8_of_byte, BitVec.and_self]

theorem aluOr_self_y (x : Byte) : (aluOr (x.toNat : Int) (x.toNat : Int)).y = x := by
  rw [aluOr_eq, logicalResponse, mask8_of_byte, BitVec.or_self]

/-- XOR of an operand with itself is zero, with Z alone. -/
theorem aluXor_self (a : Int) :
    aluXor a a = { y := 0#8, flags := { z := true, n := false, c := false, v := false } } := by
  rw [aluXor_eq, BitVec.xor_self]
  rfl

/-- Settles O25: each clause is the law of one pair of operations. -/
theorem operationsObeyTheirLaws : Obligations.OperationsObeyTheirLaws :=
  fun x y => ⟨aluAdd_comm _ _, aluSub_aluAdd_y x y, aluXor_255 _, aluSub_255 _, aluNot_aluNot_y x, aluAnd_self_y x,
    aluOr_self_y x, aluXor_self _⟩

/-! ## Negation by two routes -/

/-- Complement and 1 add up to the negated byte. -/
theorem aluAdd_complement_y (a b : Int) : (aluAdd ((aluNot a b).y.toNat : Int) 1).y = (aluSub 0 a).y := by
  have hone : mask8 1 = 1#8 := by decide
  have hzero : mask8 0 = 0#8 := by decide
  have hcomplement : (aluNot a b).y = ~~~(mask8 a) := rfl
  rw [aluAdd_y_eq, aluSub_y_eq, mask8_of_byte, hone, hzero, hcomplement, ← BitVec.neg_eq_not_add, BitVec.zero_sub]

/-- Complement and 1 carry only for the byte 0, the one byte that subtracted from 0 does not borrow. -/
theorem aluAdd_complement_c (a b : Int) : (aluAdd ((aluNot a b).y.toNat : Int) 1).flags.c = !(aluSub 0 a).flags.c := by
  have hadd : (aluAdd ((aluNot a b).y.toNat : Int) 1).flags.c = decide (255 < (~~~(mask8 a)).toNat + 1) := by
    rw [aluAdd_eq, mask8_of_byte]
    exact carryOfSum_of_bytes _ 1#8
  have hsub : (aluSub 0 a).flags.c = decide (0 < (mask8 a).toNat) := borrowOfDifference_of_bytes 0#8 _
  rw [hadd, hsub, BitVec.toNat_not, ← decide_not, decide_eq_decide]
  omega

/-- Settles O26: two requests and one request run to their responses, the second of the two on the first's result. -/
theorem negationByTwoRoutesAgrees : Obligations.NegationByTwoRoutesAgrees := by
  intro x s rest
  have hcomplement := step_request_of_some (r := Request.notOf (.value x)) s
    (.request { op := 0, a := .lastResult, b := .value 1 } :: rest) (decodeRaw_encodeRaw .not)
  have haddOne := step_request_of_some (r := { op := 0, a := .lastResult, b := .value 1 })
    (complete (aluNot x 0) { s with pending := rest }) rest (decodeRaw_encodeRaw .add)
  have hfromZero := step_plainRequest_of_some 0 x s rest (decodeRaw_encodeRaw .sub)
  exact ⟨_, _, (run_succ_of_next hcomplement).trans (run_succ_of_next haddOne), run_succ_of_next hfromZero, rfl, rfl,
    aluAdd_complement_y x 0, aluAdd_complement_c x 0⟩

/-! ## Sixteen bits -/

/-- Result and carry of ADD together are the exact sum of the normalised operands (41_arithmetic.md R65). -/
theorem aluAdd_exact (a b : Int) :
    (aluAdd a b).y.toNat + 256 * (aluAdd a b).flags.c.toNat = (mask8 a).toNat + (mask8 b).toNat :=
  mask8_add_toNat_add_carry _ _

theorem mask8_bool_toNat (c : Bool) : (mask8 (c.toNat : Int)).toNat = c.toNat := by
  cases c <;> rfl

/-- Two bits that are not both set. -/
theorem toNat_or_of_add_le_one {c d : Bool} (h : c.toNat + d.toNat ≤ 1) : (c || d).toNat = c.toNat + d.toNat := by
  revert c d
  decide

/-- Settles O27: the three exact sums add up, since the high bytes and the carry into them exceed a byte at most once. -/
theorem hostPropagatedCarryAddsSixteenBits : Obligations.HostPropagatedCarryAddsSixteenBits := by
  intro xh xl yh yl lo hi hi'
  have hlo : lo.y.toNat + 256 * lo.flags.c.toNat = xl.toNat + yl.toNat :=
    (aluAdd_exact _ _).trans (by rw [mask8_of_byte, mask8_of_byte])
  have hhi : hi.y.toNat + 256 * hi.flags.c.toNat = xh.toNat + yh.toNat :=
    (aluAdd_exact _ _).trans (by rw [mask8_of_byte, mask8_of_byte])
  have hhi' : hi'.y.toNat + 256 * hi'.flags.c.toNat = hi.y.toNat + lo.flags.c.toNat :=
    (aluAdd_exact _ _).trans (by rw [mask8_of_byte, mask8_bool_toNat])
  have hone : hi.flags.c.toNat + hi'.flags.c.toNat ≤ 1 := by
    have := xh.isLt
    have := yh.isLt
    have := lo.flags.c.toNat_le
    omega
  rw [toNat_or_of_add_le_one hone]
  omega

/-! ## The reset snapshot -/

/-- Settles O29: a response differs from the reset snapshot in Z alone if its result is 0. -/
theorem resetSnapshotIsNoResponse : Obligations.ResetSnapshotIsNoResponse := by
  intro i s
  refine ⟨_, exec_eq i s, alu_ne_resetSnapshot _ _ _, ?_⟩
  rintro ⟨hy, hz⟩
  obtain ⟨hreport, _⟩ := alu_znReportResult i.opcode i.fstOperand i.sndOperand
  rw [complete_lr] at hy
  rw [complete_lf, hreport, hy] at hz
  cases hz

end Sys2Proof.Machine
end

section
/-! PROOF. The clock edge and the ports (10_state.md section 6, 60_exceptions.md sections 3 and 5): what a cycle shows and
what it loads, and its agreement with the request level. -/

namespace Sys2Proof.Machine

/-! ## The four cases of an edge -/

/-- With `rst = 0` and `exec = 0` the register holds (10_state.md R25). -/
theorem clockEdge_of_hold {i : PortIn} (s : State) (hrst : i.rst = false) (hexec : i.exec = false) :
    clockEdge i s = s := by
  simp [clockEdge, hrst, hexec]

/-- A valid request loads the combinational outputs (10_state.md R25). -/
theorem clockEdge_of_load {i : PortIn} (s : State) (hrst : i.rst = false) (hexec : i.exec = true)
    (herr : errLine i.op = false) :
    clockEdge i s = { s with lr := (combinational i s.draws).y, lf := (combinational i s.draws).flags } := by
  simp [clockEdge, hrst, hexec, herr]

/-- An invalid request leaves the snapshot open and marks the run (60_exceptions.md R93, R94). -/
theorem clockEdge_of_fail {i : PortIn} (s : State) (hrst : i.rst = false) (hexec : i.exec = true)
    (herr : errLine i.op = true) : clockEdge i s = portInvalidOpcode s := by
  simp [clockEdge, hrst, hexec, herr]

/-! ## The snapshot and the mark after a cycle -/

/-- Sampling the outputs leaves the snapshot to the edge. -/
theorem snapshot_portCycle (i : PortIn) (s : State) : (portCycle i s).snapshot = (clockEdge i s).snapshot := rfl

/-- A cycle leaves the host's list alone. -/
theorem pending_portCycle (i : PortIn) (s : State) : (portCycle i s).pending = s.pending := clockEdge_pending i s

theorem snapshot_portCycle_of_rst {i : PortIn} (s : State) (hrst : i.rst = true) :
    (portCycle i s).snapshot = resetSnapshot := by
  rw [snapshot_portCycle, clockEdge_of_rst s hrst]
  rfl

theorem snapshot_portCycle_of_hold {i : PortIn} (s : State) (hrst : i.rst = false) (hexec : i.exec = false) :
    (portCycle i s).snapshot = s.snapshot := by
  rw [snapshot_portCycle, clockEdge_of_hold s hrst hexec]

theorem snapshot_portCycle_of_load {i : PortIn} (s : State) (hrst : i.rst = false) (hexec : i.exec = true)
    (herr : errLine i.op = false) : (portCycle i s).snapshot = (portOutputs i s).alu := by
  rw [snapshot_portCycle, clockEdge_of_load s hrst hexec herr]
  rfl

theorem portCycle_faulted_of_fail {i : PortIn} (s : State) (hrst : i.rst = false) (hexec : i.exec = true)
    (herr : errLine i.op = true) : (portCycle i s).faulted = true := by
  rw [portCycle_faulted, clockEdge_of_fail s hrst hexec herr, portInvalidOpcode_faulted]

/-- Only a failing edge touches the mark. -/
theorem portCycle_faulted_of_not_fail {i : PortIn} (s : State)
    (h : ¬ (i.rst = false ∧ i.exec = true ∧ errLine i.op = true)) : (portCycle i s).faulted = s.faulted := by
  rw [portCycle_faulted]
  obtain ⟨_, hedge⟩ | ⟨hrst, hexec, herr, _⟩ | ⟨_, _, _, _, _, hedge⟩ | ⟨_, _, hedge⟩ := clockEdge_cases i s
  · rw [hedge, resetRegisters_faulted]
  · exact absurd ⟨hrst, hexec, herr⟩ h
  · rw [hedge]
  · rw [hedge]

/-- The counter moves only in a cycle with `err = 1`. -/
theorem drawsAfter_of_valid {i : PortIn} (s : State) (herr : errLine i.op = false) : drawsAfter i s = s.draws := by
  rw [drawsAfter, herr]
  rfl

/-- Settles O36: a read and an idle step are what their definitions say, and a cycle with `exec = 0` holds. -/
theorem readingAndIdlingChangeNothing : Obligations.ReadingAndIdlingChangeNothing := by
  refine ⟨fun s rest => rfl, fun s => step_of_idle, fun s i rest hrst hexec => ?_⟩
  refine ⟨_, step_cycle s i rest, snapshot_portCycle_of_hold _ hrst hexec, portCycle_faulted_of_not_fail _ ?_,
    pending_portCycle _ _⟩
  simp [hexec]

/-- Settles O43: the four cases of the edge, each with its snapshot or its mark. -/
theorem clockEdgeUpdatesTheSnapshot : Obligations.ClockEdgeUpdatesTheSnapshot := by
  intro s i rest
  refine ⟨_, step_cycle s i rest, pending_portCycle _ _, fun hrst hexec herr => ?_, fun hrst hexec => ?_,
    fun hrst hexec herr => ?_, fun hrst => ?_⟩
  · rw [portOutputs_err] at herr
    exact ⟨snapshot_portCycle_of_load _ hrst hexec herr, portCycle_faulted_of_not_fail _ (by simp [herr])⟩
  · exact ⟨snapshot_portCycle_of_hold _ hrst hexec, portCycle_faulted_of_not_fail _ (by simp [hexec])⟩
  · exact portCycle_faulted_of_fail _ hrst hexec herr
  · exact ⟨snapshot_portCycle_of_rst _ hrst, portCycle_faulted_of_not_fail _ (by simp [hrst])⟩

/-! ## The outputs -/

/-- A valid pattern's outputs are the function of the operation and the operand wires, in every state. -/
theorem portOutputs_alu_of_encodePort {i : PortIn} {o : Opcode} (s : State) (h : i.op = encodePort o) :
    (portOutputs i s).alu = alu o (i.a.toNat : Int) (i.b.toNat : Int) :=
  combinational_of_some _ ((decodePort_eq_some_iff i.op o).2 h)

/-- A pattern in 0..5 is that of an operation. -/
theorem exists_encodePort_of_le {op : BitVec 3} (h : op.toNat ≤ 5) : ∃ o, op = encodePort o := by
  cases hp : decodePort op with
  | none =>
    have := (decodePort_eq_none_iff op).1 hp
    omega
  | some o => exact ⟨o, (decodePort_eq_some_iff op o).1 hp⟩

/-- Settles O41: both outputs are `alu` of the same operation and bytes, which is what `exec` completes with. -/
theorem outputsFollowTheInputsAlone : Obligations.OutputsFollowTheInputsAlone := by
  constructor
  · intro i j s t ha hb hop hvalid
    obtain ⟨o, ho⟩ := exists_encodePort_of_le hvalid
    rw [portOutputs_alu_of_encodePort s ho, portOutputs_alu_of_encodePort t (hop.symm.trans ho), ha, hb]
  · intro o i s u ho
    refine ⟨_, exec_eq _ u, ?_⟩
    rw [portOutputs_alu_of_encodePort s ho, snapshot_complete, opcode_instr, fstOperand_instr, sndOperand_instr]

/-- Settles O42: the registered outputs switch to the reset values only under `rst`, and then by the open constant. -/
theorem registeredOutputsShowTheSnapshot : Obligations.RegisteredOutputsShowTheSnapshot := by
  intro i s
  constructor
  · intro hrst
    simp [portOutputs, hrst]
  · intro hrst
    cases hkind : Config.resetIsAsynchronous with
    | false => exact .inl (by simp [portOutputs, hkind])
    | true => exact .inr (by simp [portOutputs, hrst, hkind, State.reset])

/-! ## The two levels -/

/-- An integer's low eight wires are the byte that normalisation gives, so both levels compute the same response. -/
theorem alu_ofInt (o : Opcode) (a b : Int) :
    alu o ((BitVec.ofInt 8 a).toNat : Int) ((BitVec.ofInt 8 b).toNat : Int) = alu o a b :=
  alu_congr o (by rw [mask8_of_byte, mask8_eq_ofInt]) (by rw [mask8_of_byte, mask8_eq_ofInt])

/-- A request of a port pattern faults exactly if `err` is raised for the pattern. -/
theorem step_plainRequest_faults_iff (p : BitVec 3) (a b : Int) (s : State) (rest : List Action) :
    (∃ f, step { s with pending := .request (Request.plain (p.toNat : Int) a b) :: rest } = .fault f) ↔
      errLine p = true := by
  rw [errLine_eq]
  cases hp : decodePort p with
  | none => simp [step_plainRequest_of_emptyPattern a b s rest hp]
  | some o => simp [step_plainRequest_of_some a b s rest ((decodeRaw_toNat p).trans hp)]

/-- Settles O44: both levels answer `alu` of the same normalised operands, and reject the same patterns. -/
theorem portAndRequestLevelsAgree : Obligations.PortAndRequestLevelsAgree := by
  constructor
  · intro o a b s rest i
    have herr : errLine i.op = false := errLine_encodePort o
    have hout : (portOutputs i s).alu = alu o a b := (portOutputs_alu_of_encodePort s rfl).trans (alu_ofInt o a b)
    have hpending := pending_portCycle i { s with pending := rest }
    have hmark := portCycle_faulted_of_not_fail (i := i) { s with pending := rest } (by simp [herr])
    have hdraws := drawsAfter_of_valid { s with pending := rest } herr
    exact ⟨_, _, alu o a b, portOutputs i s, step_plainRequest_of_some a b s rest (decodeRaw_encodeRaw o),
      step_cycle s i rest, rfl, (snapshot_portCycle_of_load _ rfl rfl herr).trans hout, hout, herr, rfl, rfl,
      hpending.symm, hmark.symm, hdraws.symm⟩
  · intro p a b s rest i q
    exact ⟨step_plainRequest_faults_iff p _ _ s rest,
      fun herr => ⟨_, step_cycle s i rest, portCycle_faulted_of_fail _ rfl rfl herr⟩⟩

/-! ## After a failed request -/

/-- Settles O45: a load overwrites all twelve bits, so nothing of what the failed request left survives but the mark. -/
theorem validRequestAfterFailedOneIsOrdinary : Obligations.ValidRequestAfterFailedOneIsOrdinary := by
  intro o i j s rest hirst hiexec hiop hjrst hjexec hjop
  have hierr : errLine i.op = true := (errLine_iff i.op).2 hiop
  have hjerr : errLine j.op = false := by rw [hjop, errLine_encodePort]
  have hpending := pending_portCycle i { s with pending := .cycle j :: rest }
  have hmark := portCycle_faulted_of_fail { s with pending := .cycle j :: rest } hirst hiexec hierr
  refine ⟨_, (run_succ_of_next (step_cycle s i _)).trans (run_succ_of_next (step_of_pending hpending)), ?_, ?_,
    pending_portCycle _ _⟩
  · exact (snapshot_portCycle_of_load _ hjrst hjexec hjerr).trans (portOutputs_alu_of_encodePort _ hjop)
  · exact (portCycle_faulted_of_not_fail _ (by simp [hjerr])).trans hmark

end Sys2Proof.Machine
end

section
/-! PROOF. What every step keeps (10_state.md sections 2, 4 and 5, 60_exceptions.md section 4): the record and the
snapshot, the report of Z and N, and the fault mark. -/

namespace Sys2Proof.Machine

/-- A property that the host's list plays no part in and that every action keeps is kept by every step. -/
theorem step_keeps {P : State → Prop} (hpending : ∀ s rest, P s → P { s with pending := rest })
    (haction : ∀ act s t, performAction act s = .next t → P s → P t) {s t : State} (hs : P s)
    (h : step s = .next t) : P t := by
  obtain ⟨_, rfl⟩ | ⟨act, rest, _, hact⟩ := step_cases h
  · exact hs
  · exact haction act _ t hact (hpending s rest hs)

/-! ## The snapshot and the record -/

/-- The invariant after one more entry: what the entry tells, given what was known of the old snapshot, is the new
snapshot. -/
theorem snapshotInv_of_seen_append {s t : State} {e : Event} (hs : s.SnapshotInv) (hseen : t.seen = s.seen ++ [e])
    (htells : ∀ known r, (∀ r', known = some r' → s.snapshot = r') → snapshotAfter known e = some r → t.snapshot = r) :
    t.SnapshotInv := by
  intro r hr
  rw [hseen, snapshotFromRecord_append] at hr
  exact htells _ r hs hr

/-- A clock cycle's entry tells what the edge did: reset, hold, load, or nothing after a failed request. -/
theorem snapshotAfter_portCycle (i : PortIn) (s : State) {known : Option Response} {r : Response}
    (hknown : ∀ r', known = some r' → s.snapshot = r')
    (h : snapshotAfter known (.cycle i (portOutputs i s)) = some r) : (portCycle i s).snapshot = r := by
  obtain ⟨hrst, _⟩ | ⟨hrst, hexec, herr, _⟩ | ⟨_, hrst, hexec, herr, _, _⟩ | ⟨hrst, hexec, _⟩ := clockEdge_cases i s
  · rw [snapshot_portCycle_of_rst s hrst]
    simpa [snapshotAfter, hrst] using h
  · simp [snapshotAfter, hrst, hexec, herr] at h
  · rw [snapshot_portCycle_of_load s hrst hexec herr]
    simpa [snapshotAfter, hrst, hexec, herr] using h
  · rw [snapshot_portCycle_of_hold s hrst hexec]
    exact hknown r (by simpa [snapshotAfter, hrst, hexec] using h)

theorem performAction_keeps_snapshotInv (act : Action) (s t : State) (h : performAction act s = .next t)
    (hs : s.SnapshotInv) : t.SnapshotInv := by
  obtain ⟨r, o, _, _, rfl⟩ | ⟨_, rfl⟩ | ⟨_, rfl⟩ | ⟨i, _, rfl⟩ := performAction_cases h
  · exact snapshotInv_of_seen_append hs (complete_seen _ s) fun _ _ _ htold => Option.some.inj htold
  · exact snapshotInv_of_seen_append hs (readSnapshot_seen s) fun _ r hknown htold => hknown r htold
  · exact snapshotInv_of_seen_append hs (hostReset_seen s) fun _ _ _ htold => Option.some.inj htold
  · exact snapshotInv_of_seen_append hs (portCycle_seen i s) fun _ _ => snapshotAfter_portCycle i s

/-- Settles O30: the empty record tells the reset values, which the reset state holds. -/
theorem snapshotMatchesRecordAtReset : Obligations.SnapshotMatchesRecordAtReset :=
  fun _ h => Option.some.inj h

/-- Settles O31: each action's entry in the record tells the snapshot it leaves. -/
theorem stepKeepsSnapshotInvariant : Obligations.StepKeepsSnapshotInvariant :=
  fun _ _ => step_keeps (fun _ _ hs => hs) performAction_keeps_snapshotInv

/-! ## Z and N -/

/-- Responses report Z and N, and so does a snapshot that holds one. -/
theorem znInv_of_snapshot_eq_alu {s : State} {o : Opcode} {a b : Int} (h : s.snapshot = alu o a b) : s.ZNInv :=
  .inr (.inr (h ▸ alu_znReportResult o a b))

/-- The invariant speaks of the mark and the snapshot alone. -/
theorem znInv_congr {s t : State} (hs : s.ZNInv) (hmark : t.faulted = s.faulted) (hsnapshot : t.snapshot = s.snapshot) :
    t.ZNInv := by
  rwa [State.ZNInv, hmark, hsnapshot]

theorem portCycle_keeps_znInv (i : PortIn) {s : State} (hs : s.ZNInv) : (portCycle i s).ZNInv := by
  obtain ⟨hrst, _⟩ | ⟨hrst, hexec, herr, _⟩ | ⟨o, hrst, hexec, herr, ho, _⟩ | ⟨hrst, hexec, _⟩ := clockEdge_cases i s
  · exact .inr (.inl (snapshot_portCycle_of_rst s hrst))
  · exact .inl (portCycle_faulted_of_fail s hrst hexec herr)
  · exact znInv_of_snapshot_eq_alu
      ((snapshot_portCycle_of_load s hrst hexec herr).trans (combinational_of_some s.draws ho))
  · exact znInv_congr hs (portCycle_faulted_of_not_fail s (by simp [hexec])) (snapshot_portCycle_of_hold s hrst hexec)

theorem performAction_keeps_znInv (act : Action) (s t : State) (h : performAction act s = .next t) (hs : s.ZNInv) :
    t.ZNInv := by
  obtain ⟨r, o, _, _, rfl⟩ | ⟨_, rfl⟩ | ⟨_, rfl⟩ | ⟨i, _, rfl⟩ := performAction_cases h
  · exact znInv_of_snapshot_eq_alu (snapshot_complete _ s)
  · exact znInv_congr hs (readSnapshot_faulted s) (snapshot_readSnapshot s)
  · exact .inr (.inl (snapshot_hostReset s))
  · exact portCycle_keeps_znInv i hs

/-- Settles O32: a request and a loading edge leave a response, a reset leaves the reset snapshot, a failing edge the
mark, and nothing else writes the snapshot. -/
theorem stepKeepsZeroAndNegativeReport : Obligations.StepKeepsZeroAndNegativeReport :=
  ⟨.inr (.inl rfl), fun _ _ => step_keeps (fun _ _ hs => hs) performAction_keeps_znInv⟩

/-! ## The record -/

/-- The entry an action adds to the record in going from one state to the next. -/
def Action.entry : Action → State → State → Event
  | .request _, _, t => .response t.snapshot
  | .read, s, _ => .snapshot s.lr s.lf
  | .reset, _, _ => .reset
  | .cycle i, s, _ => .cycle i (portOutputs i s)

/-- An action adds its one entry to the record and leaves the host's list alone. -/
theorem performAction_extends_record {act : Action} {s t : State} (h : performAction act s = .next t) :
    t.pending = s.pending ∧ t.seen = s.seen ++ [act.entry s t] := by
  obtain ⟨r, o, rfl, _, rfl⟩ | ⟨rfl, rfl⟩ | ⟨rfl, rfl⟩ | ⟨i, rfl, rfl⟩ := performAction_cases h
  · exact ⟨complete_pending _ s, complete_seen _ s⟩
  · exact ⟨readSnapshot_pending s, readSnapshot_seen s⟩
  · exact ⟨hostReset_pending s, hostReset_seen s⟩
  · exact ⟨pending_portCycle i s, portCycle_seen i s⟩

/-- Settles O33: a step is idle, or one action, which adds its own entry. -/
theorem stepExtendsTheRecordByItsAction : Obligations.StepExtendsTheRecordByItsAction := by
  intro s t h
  obtain hidle | ⟨act, rest, hp, hact⟩ := step_cases h
  · exact .inl hidle
  · obtain ⟨hrest, hseen⟩ := performAction_extends_record hact
    refine .inr ⟨act, rest, _, hp, hrest, hseen, ?_⟩
    cases act <;> rfl

/-! ## The fault mark -/

/-- An action leaves the mark alone, or it is a cycle that samples an invalid opcode and sets it. -/
theorem performAction_faulted {act : Action} {s t : State} (h : performAction act s = .next t) :
    t.faulted = s.faulted ∨
    (t.faulted = true ∧ ∃ i, act = .cycle i ∧ i.rst = false ∧ i.exec = true ∧ errLine i.op = true) := by
  obtain ⟨r, o, _, _, rfl⟩ | ⟨_, rfl⟩ | ⟨_, rfl⟩ | ⟨i, rfl, rfl⟩ := performAction_cases h
  · exact .inl rfl
  · exact .inl rfl
  · exact .inl rfl
  · by_cases hfail : i.rst = false ∧ i.exec = true ∧ errLine i.op = true
    · obtain ⟨hrst, hexec, herr⟩ := hfail
      exact .inr ⟨portCycle_faulted_of_fail s hrst hexec herr, i, rfl, hrst, hexec, herr⟩
    · exact .inl (portCycle_faulted_of_not_fail s hfail)

/-- Settles O34: no action clears the mark, and the one that sets it samples 6 or 7. -/
theorem faultMarkIsPermanentAndEarned : Obligations.FaultMarkIsPermanentAndEarned := by
  intro s t h
  obtain ⟨_, rfl⟩ | ⟨act, rest, hp, hact⟩ := step_cases h
  · exact ⟨id, fun hclear hset => absurd (hclear.symm.trans hset) (by decide)⟩
  · obtain hsame | ⟨hmarked, i, rfl, hrst, hexec, herr⟩ := performAction_faulted hact
    · exact ⟨hsame.trans, fun hclear hset => absurd ((hsame.trans hclear).symm.trans hset) (by decide)⟩
    · exact ⟨fun _ => hmarked, fun _ _ => ⟨i, rest, hp, hrst, hexec, (errLine_iff i.op).1 herr⟩⟩

/-! ## Who writes the snapshot -/

/-- A read and a cycle with neither `exec` nor `rst` keep the snapshot; every other action may write it. -/
theorem performAction_snapshot {act : Action} {s t : State} (h : performAction act s = .next t) :
    t.snapshot = s.snapshot ∨ (∃ r, act = .request r) ∨ act = .reset ∨
      (∃ i, act = .cycle i ∧ (i.rst = true ∨ i.exec = true)) := by
  obtain ⟨r, o, rfl, _, _⟩ | ⟨_, rfl⟩ | ⟨rfl, _⟩ | ⟨i, rfl, rfl⟩ := performAction_cases h
  · exact .inr (.inl ⟨r, rfl⟩)
  · exact .inl (snapshot_readSnapshot s)
  · exact .inr (.inr (.inl rfl))
  · obtain ⟨hrst, _⟩ | ⟨_, hexec, _⟩ | ⟨_, _, hexec, _⟩ | ⟨hrst, hexec, _⟩ := clockEdge_cases i s
    · exact .inr (.inr (.inr ⟨i, rfl, .inl hrst⟩))
    · exact .inr (.inr (.inr ⟨i, rfl, .inr hexec⟩))
    · exact .inr (.inr (.inr ⟨i, rfl, .inr hexec⟩))
    · exact .inl (snapshot_portCycle_of_hold s hrst hexec)

/-- Settles O35: a step with another snapshot is not idle, and its action is one that writes. -/
theorem onlyRequestsAndResetWriteTheSnapshot : Obligations.OnlyRequestsAndResetWriteTheSnapshot := by
  intro s t h hchanged
  obtain ⟨_, rfl⟩ | ⟨act, rest, hp, hact⟩ := step_cases h
  · exact absurd rfl hchanged
  · exact ⟨act, rest, hp, (performAction_snapshot hact).resolve_left hchanged⟩

end Sys2Proof.Machine
end

section
/-! PROOF. Runs (60_exceptions.md section 1, 70_reset_and_hazards.md section 5): a host that keeps its duty never meets a
fault, and a run of requests yields their responses. -/

namespace Sys2Proof.Machine

/-! ## A host that keeps its duty -/

/-- The duty for a cycle: it samples no invalid opcode. -/
theorem keepsDuty_cycle_iff (i : PortIn) :
    (Action.cycle i).keepsDuty = true ↔ ¬ (i.rst = false ∧ i.exec = true ∧ errLine i.op = true) := by
  have hvalid : i.op.toNat ≤ 5 ↔ ¬ errLine i.op = true := by
    rw [errLine_iff]
    omega
  rw [Action.keepsDuty, Bool.or_eq_true, Bool.or_eq_true, decide_eq_true_iff, hvalid]
  cases i.rst <;> cases i.exec <;> simp

/-- An action that keeps the duty completes and leaves the mark alone. -/
theorem performAction_of_keepsDuty {act : Action} (s : State) (h : act.keepsDuty = true) :
    ∃ t, performAction act s = .next t ∧ t.faulted = s.faulted := by
  cases act with
  | request r =>
    obtain ⟨o, ho⟩ := decodeRaw_of_valid (of_decide_eq_true h)
    exact ⟨_, presentRequest_of_some s ho, complete_faulted _ s⟩
  | read => exact ⟨_, rfl, readSnapshot_faulted s⟩
  | reset => exact ⟨_, rfl, hostReset_faulted s⟩
  | cycle i => exact ⟨_, rfl, portCycle_faulted_of_not_fail s ((keepsDuty_cycle_iff i).1 h)⟩

/-- The step of a host that keeps its duty takes the first action, adds one entry and leaves the mark alone. -/
theorem step_of_keepsDuty {s : State} {act : Action} {rest : List Action} (hp : s.pending = act :: rest)
    (hduty : act.keepsDuty = true) :
    ∃ t e, step s = .next t ∧ t.pending = rest ∧ t.faulted = s.faulted ∧ t.seen = s.seen ++ [e] := by
  obtain ⟨t, hact, hmark⟩ := performAction_of_keepsDuty { s with pending := rest } hduty
  obtain ⟨hrest, hseen⟩ := performAction_extends_record hact
  exact ⟨t, _, (step_of_pending hp).trans hact, hrest, hmark, hseen⟩

theorem hostKeepsDuty_cons {s : State} {act : Action} {rest : List Action} (hp : s.pending = act :: rest) :
    s.hostKeepsDuty = true ↔ act.keepsDuty = true ∧ rest.all Action.keepsDuty = true := by
  rw [State.hostKeepsDuty, hp, List.all_cons, Bool.and_eq_true]

/-- Settles O37: the first action of a dutiful host completes unmarked, and the rest of its list is dutiful. -/
theorem claimableStatesKeepStepping : Obligations.ClaimableStatesKeepStepping := by
  rintro s ⟨hclear, hduty⟩
  cases hp : s.pending with
  | nil => exact ⟨s, step_of_idle hp, hclear, hduty⟩
  | cons act rest =>
    obtain ⟨hact, hrest⟩ := (hostKeepsDuty_cons hp).1 hduty
    obtain ⟨t, _, hstep, hpending, hmark, _⟩ := step_of_keepsDuty hp hact
    exact ⟨t, hstep, hmark.trans hclear, by rwa [State.hostKeepsDuty, hpending]⟩

/-- A run over a dutiful list takes one step and adds one entry for each action. -/
theorem run_of_all_keepsDuty (acts : List Action) (hduty : acts.all Action.keepsDuty = true) (s : State)
    (hp : s.pending = acts) :
    ∃ t, core.run acts.length s = .next t ∧
      t.pending = [] ∧ t.faulted = s.faulted ∧ t.seen.length = s.seen.length + acts.length := by
  induction acts generalizing s with
  | nil => exact ⟨s, rfl, hp, rfl, rfl⟩
  | cons act rest ih =>
    rw [List.all_cons, Bool.and_eq_true] at hduty
    obtain ⟨hact, hrest⟩ := hduty
    obtain ⟨u, e, hstep, hpending, hmark, hseen⟩ := step_of_keepsDuty hp hact
    obtain ⟨t, hrun, hdone, hmark', hlength⟩ := ih hrest u hpending
    refine ⟨t, (run_succ_of_next hstep).trans hrun, hdone, hmark'.trans hmark, ?_⟩
    rw [hlength, hseen, List.length_append, List.length_singleton, List.length_cons, Nat.add_assoc, Nat.add_comm 1]

/-- Settles O38: the run over the host's own list. -/
theorem runOfDutifulHostEnds : Obligations.RunOfDutifulHostEnds :=
  fun s hduty => run_of_all_keepsDuty s.pending hduty s rfl

/-! ## A run of requests -/

/-- A plain request of an operation at the head of the list completes with its response. -/
theorem step_of_pending_plainRequest {s : State} {o : Opcode} {a b : Int} {rest : List Action}
    (hp : s.pending = .request (Request.plain (encodeRaw o) a b) :: rest) :
    step s = .next (complete (alu o a b) { s with pending := rest }) := by
  rw [step_of_pending hp]
  exact presentRequest_of_some (r := Request.plain (encodeRaw o) a b) _ (decodeRaw_encodeRaw o)

/-- Settles O39, by induction on the requests: each adds its response to the record and becomes the snapshot that the
rest of the run starts from. -/
theorem runOfRequestsCollectsTheirResponses : Obligations.RunOfRequestsCollectsTheirResponses := by
  intro qs
  induction qs with
  | nil => exact fun s hp => ⟨s, rfl, (List.append_nil _).symm, rfl, hp, rfl, rfl⟩
  | cons q qs ih =>
    intro s hp
    obtain ⟨t, hrun, hseen, hsnapshot, hdone, hmark, hdraws⟩ :=
      ih (complete (alu q.1 q.2.1 q.2.2) { s with pending := _ }) rfl
    refine ⟨t, (run_succ_of_next (step_of_pending_plainRequest hp)).trans hrun, ?_, ?_, hdone, hmark, hdraws⟩
    · rw [hseen, complete_seen, List.append_assoc, List.map_cons, List.singleton_append]
    · rw [hsnapshot, snapshot_complete, List.map_cons, List.getLastD_cons]

end Sys2Proof.Machine
end
